-- ==== Sys2Proof/Word.lean ====
section
/-! DEFINITION. The word types of RADIX128: the widths the spec gives the command beat and the registers
(`00_scope.md` R7, R10, R11, `30_encoding.md` R70). All integers are unsigned (R13). -/

namespace Sys2Proof

/-- One command beat on the port `cmd[147:0]`: 4 + 16 + 128 bits (R70, `CMD_BITS` of R11). -/
abbrev Beat := BitVec 148

/-- The 128-bit value that ENC takes and DEC delivers (R7). -/
abbrev Value := BitVec 128

/-- The working integer `ACC`, `ACC_BITS` = 136 bits (R11, R22). -/
abbrev AccWord := BitVec 136

/-- The command's `idx` field and the registers that latch it, `IDX_BITS` = 16 bits (R11, R24, R37). -/
abbrev Idx := BitVec 16

/-- A symbol code of `SYM_BITS` = 8 bits, compared only for equality, stored and returned (R10, R104). -/
abbrev Sym := BitVec 8

end Sys2Proof
end

