-- ==== Sys2Proof/Syntax.lean ====
section
/-! DEFINITION. The commands of RADIX128, one constructor per row of `spec/opcode_table.json`
(`30_encoding.md` R71, R80). The fields a command does not use are no part of it: the hardware ignores them (R74).
The nine reserved opcodes 0x6 to 0xE are a row each, and a constructor each (R75, R147). -/

namespace Sys2Proof

inductive Instr where
  /-- NOP, opcode 0x0 (R145). -/
  | nop
  /-- WRSYM idx, sym, opcode 0x1: write one alphabet symbol (R91). -/
  | wrsym (idx : Idx) (sym : Sym)
  /-- CFG n, opcode 0x2: build the alphabet from `FWD[0..n-1]` (R92). -/
  | cfg (n : Idx)
  /-- ENC value, opcode 0x3: encode a 128-bit value (R110). -/
  | enc (value : Value)
  /-- WRIN idx, sym, opcode 0x4: write one input symbol (R125). -/
  | wrin (idx : Idx) (sym : Sym)
  /-- DEC len, opcode 0x5: decode the string in IBUF (R126). -/
  | dec (len : Idx)
  /-- Reserved opcode 0x6 (R147). -/
  | ill6
  /-- Reserved opcode 0x7 (R147). -/
  | ill7
  /-- Reserved opcode 0x8 (R147). -/
  | ill8
  /-- Reserved opcode 0x9 (R147). -/
  | ill9
  /-- Reserved opcode 0xA (R147). -/
  | illA
  /-- Reserved opcode 0xB (R147). -/
  | illB
  /-- Reserved opcode 0xC (R147). -/
  | illC
  /-- Reserved opcode 0xD (R147). -/
  | illD
  /-- Reserved opcode 0xE (R147). -/
  | illE
  /-- RST, opcode 0xF: back to the reset state (R146). -/
  | rst
  deriving DecidableEq, Repr

/-- The row of `spec/opcode_table.json` a command stands for. -/
def Instr.mnemonic : Instr → String
  | .nop => "NOP"
  | .wrsym _ _ => "WRSYM"
  | .cfg _ => "CFG"
  | .enc _ => "ENC"
  | .wrin _ _ => "WRIN"
  | .dec _ => "DEC"
  | .ill6 => "ILL_6"
  | .ill7 => "ILL_7"
  | .ill8 => "ILL_8"
  | .ill9 => "ILL_9"
  | .illA => "ILL_A"
  | .illB => "ILL_B"
  | .illC => "ILL_C"
  | .illD => "ILL_D"
  | .illE => "ILL_E"
  | .rst => "RST"

end Sys2Proof
end

