-- ==== Sys2Proof/WellFormed.lean ====
section
/-! DEFINITION. Which commands a host should send. EVERY term of `Instr` has an encoding and a meaning, because the
types carry the field widths and the decode function is total (`30_encoding.md` R76): the encoder and the decoder
agree on all of them, and no statement of this package assumes the predicate below except where it says so.

`wellFormed` is the narrower check that R71 calls legal: the index of WRSYM is 0..255, the index of WRIN is 0..31,
and the reserved opcodes are not for use. The machine answers what it refuses with an error code (R59, R75). -/

namespace Sys2Proof

/-- The operand ranges of R71 and the opcodes R71 does not call reserved. CFG and DEC take any 16-bit value. -/
def Instr.wellFormed : Instr → Bool
  | .nop => true
  | .wrsym idx _ => decide (idx.toNat < 256)
  | .cfg _ => true
  | .enc _ => true
  | .wrin idx _ => decide (idx.toNat < 32)
  | .dec _ => true
  | .ill6 => false
  | .ill7 => false
  | .ill8 => false
  | .ill9 => false
  | .illA => false
  | .illB => false
  | .illC => false
  | .illD => false
  | .illE => false
  | .rst => true

end Sys2Proof
end

