-- ==== Sys2Proof/Decode.lean ====
section
/-! DEFINITION. Command beats: the fields of format `C` (`30_encoding.md` R70), the total decode function (R80), the
encoder (the canonical encodings of R71 and R78, unused fields zero by R74), the opcode table as rows of a mask and a
pattern (R72), and the decoder's form on a plain number (`decodeWord`, `decodeTableWord`). -/

namespace Sys2Proof

/-- `op` = `cmd[147:144]` (R70). -/
def opField (c : Beat) : BitVec 4 := c.extractLsb' 144 4

/-- `idx` = `cmd[143:128]` (R70, R73). -/
def idxField (c : Beat) : Idx := c.extractLsb' 128 16

/-- `data` = `cmd[127:0]` (R70, R73). -/
def dataField (c : Beat) : Value := c.extractLsb' 0 128

/-- The symbol operand `cmd[SYM_BITS-1:0]` (R73); `data[127:8]` is ignored (R74). -/
def symField (c : Beat) : Sym := c.extractLsb' 0 8

/-- A beat of three fields, `op` most significant (R70). -/
def packBeat (op : BitVec 4) (idx : Idx) (data : Value) : Beat := op ++ idx ++ data

/-- The decode function of R80, total on all 2^148 beats (R76): `op` alone selects the command (R72). -/
def decode (c : Beat) : Instr :=
  match (opField c).toFin with
  | ⟨0, _⟩ => .nop
  | ⟨1, _⟩ => .wrsym (idxField c) (symField c)
  | ⟨2, _⟩ => .cfg (idxField c)
  | ⟨3, _⟩ => .enc (dataField c)
  | ⟨4, _⟩ => .wrin (idxField c) (symField c)
  | ⟨5, _⟩ => .dec (idxField c)
  | ⟨6, _⟩ => .ill6
  | ⟨7, _⟩ => .ill7
  | ⟨8, _⟩ => .ill8
  | ⟨9, _⟩ => .ill9
  | ⟨10, _⟩ => .illA
  | ⟨11, _⟩ => .illB
  | ⟨12, _⟩ => .illC
  | ⟨13, _⟩ => .illD
  | ⟨14, _⟩ => .illE
  | ⟨15, _⟩ => .rst
  | ⟨n + 16, h⟩ => absurd h (by omega)

/-- Why a number is no beat. -/
inductive DecodeReject where
  /-- The number has a bit above bit 147: the command port has no line for it (R70; DESIGN CHOICE, log entry
  15). -/
  | widerThanBeat
  deriving DecidableEq, Repr

/-- The decoder on a plain number, bit 0 the least significant bit of the beat (R13). -/
def decodeWord (w : Nat) : Except DecodeReject Instr :=
  if w < 2 ^ 148 then .ok (decode (BitVec.ofNat 148 w)) else .error .widerThanBeat

/-- The instruction the decoder reads from an instruction of `nbits` bits `w`, every bit above `nbits` zero. -/
def decodeTableWord (nbits w : Nat) : Option Instr :=
  match decodeWord (w % 2 ^ nbits) with
  | .ok i => some i
  | .error _ => none

/-- The symbol operand in the low bits of `data`, the rest zero (R58, R74). -/
def symData (sym : Sym) : Value := sym.setWidth 128

/-- The canonical beat of a command (R78), every unused field zero (R74). -/
def encode : Instr → Beat
  | .nop => packBeat 0x0 0 0
  | .wrsym idx sym => packBeat 0x1 idx (symData sym)
  | .cfg n => packBeat 0x2 n 0
  | .enc value => packBeat 0x3 0 value
  | .wrin idx sym => packBeat 0x4 idx (symData sym)
  | .dec len => packBeat 0x5 len 0
  | .ill6 => packBeat 0x6 0 0
  | .ill7 => packBeat 0x7 0 0
  | .ill8 => packBeat 0x8 0 0
  | .ill9 => packBeat 0x9 0 0
  | .illA => packBeat 0xA 0 0
  | .illB => packBeat 0xB 0 0
  | .illC => packBeat 0xC 0 0
  | .illD => packBeat 0xD 0 0
  | .illE => packBeat 0xE 0 0
  | .rst => packBeat 0xF 0 0

/-- A beat whose unused fields are zero, as R74 asks of a host. -/
def canonicalBeat (c : Beat) : Bool := decide (encode (decode c) = c)

/-- One row of `spec/opcode_table.json`: a beat is of the row when its bits under the mask are the row's match. -/
structure OpcodeRow where
  mnemonic : String
  pattern  : Beat
  mask     : Beat
  deriving DecidableEq, Repr

/-- The mask of every row: the opcode nibble and no other bit (R72). -/
def opcodeMask : Beat := 0xF000000000000000000000000000000000000

/-- The sixteen rows of `spec/opcode_table.json`, in its order. -/
def opcodeTable : List OpcodeRow :=
  [ ⟨"NOP", 0x0000000000000000000000000000000000000, opcodeMask⟩,
    ⟨"WRSYM", 0x1000000000000000000000000000000000000, opcodeMask⟩,
    ⟨"CFG", 0x2000000000000000000000000000000000000, opcodeMask⟩,
    ⟨"ENC", 0x3000000000000000000000000000000000000, opcodeMask⟩,
    ⟨"WRIN", 0x4000000000000000000000000000000000000, opcodeMask⟩,
    ⟨"DEC", 0x5000000000000000000000000000000000000, opcodeMask⟩,
    ⟨"ILL_6", 0x6000000000000000000000000000000000000, opcodeMask⟩,
    ⟨"ILL_7", 0x7000000000000000000000000000000000000, opcodeMask⟩,
    ⟨"ILL_8", 0x8000000000000000000000000000000000000, opcodeMask⟩,
    ⟨"ILL_9", 0x9000000000000000000000000000000000000, opcodeMask⟩,
    ⟨"ILL_A", 0xA000000000000000000000000000000000000, opcodeMask⟩,
    ⟨"ILL_B", 0xB000000000000000000000000000000000000, opcodeMask⟩,
    ⟨"ILL_C", 0xC000000000000000000000000000000000000, opcodeMask⟩,
    ⟨"ILL_D", 0xD000000000000000000000000000000000000, opcodeMask⟩,
    ⟨"ILL_E", 0xE000000000000000000000000000000000000, opcodeMask⟩,
    ⟨"RST", 0xF000000000000000000000000000000000000, opcodeMask⟩ ]

/-- The beat is of the row. -/
def OpcodeRow.covers (r : OpcodeRow) (c : Beat) : Bool := decide (c &&& r.mask = r.pattern)

end Sys2Proof
end

