-- ==== Sys2Proof/Config.lean ====
section
/-! DEFINITION. What an instance fixes and the model leaves open: the free values. Each is an opaque constant
with no body, so nothing in Lean can compute it and no proof can rest on what it is
(DESIGN CHOICE, log entries 2, 4, 6 and 16).

The parameters the spec gives a value are not here, because they are widths and bounds of types and checks:
`SYM_BITS` = 8 is the width of `Sym`; `RESET_ALPHABET` = none is `State.reset` being unconfigured (D27; DESIGN CHOICE,
log entry 8). -/

namespace Sys2Proof.Config

/-- What `FWD[i]` reads as while nothing has written it since the reset number `k`: any value, the same at every
read (`10_state.md` R30, `93_implementation_defined.md` V4, V8). -/
opaque freeFwd (k i : Nat) : Sym

/-- What `IBUF[j]` reads as while nothing has written it since the reset number `k`: any value, the same at every
read (`10_state.md` R33, `93_implementation_defined.md` V5, V8). -/
opaque freeIbuf (k j : Nat) : Sym

/-- What `OBUF[j]` holds while no ENC has written it since the reset number `k`: any value (`10_state.md` R43,
`93_implementation_defined.md` V3, V8). -/
opaque freeObuf (k j : Nat) : Sym

/-- What `ACC` holds after the reset number `k`, by the RST command or by the `reset` input: any value
(`10_state.md` R43, `93_implementation_defined.md` V1, V8). -/
opaque freeAcc (k : Nat) : AccWord

/-- What the port `RES` shows at the observation number `k` while it is unspecified: any value, at each observation
another one (`70_reset_and_hazards.md` R211, `93_implementation_defined.md` V2). -/
opaque freeResPort (k : Nat) : Value

/-- What the port `OBUF[j]` shows at the observation number `k` while it is unspecified: any value, at each observation
another one (`70_reset_and_hazards.md` R211, `93_implementation_defined.md` V3). -/
opaque freeObufPort (k j : Nat) : Sym

/-- The text of the error message number `k`, where the source gives no text (`44_host_framing.md` R166,
`91_not_in_source.md` N6): any text. -/
opaque freeMessage (k : Nat) : String

end Sys2Proof.Config
end

