-- ==== Sys2Proof/Machine/State.lean ====
section
/-! DEFINITION. The state of one RADIX128 instance (`10_state.md` R20), what the host drives on the input ports
(R41), the reasons a step can stop, and the state after reset (R43). -/

namespace Sys2Proof.Machine

/-- One of the four tables (`20_memory.md` R50): the entries written since the last reset, each an index and eight
bits, indexes strictly rising. An index that is not listed has not been written. FWD, IBUF and OBUF then hold a free
value (`State.fwdAt`, `State.ibufAt`, `State.obufAt`), and REV answers `none` (R32). -/
abbrev Memory := List Host.Cell

/-- `PHASE` (R26). -/
inductive Phase where
  /-- No command is running and the command port is ready. -/
  | idle
  /-- A CFG has been accepted and has not completed. -/
  | cfgRun
  /-- An ENC has been accepted and has not completed. -/
  | encRun
  /-- A DEC has been accepted and has not completed. -/
  | decRun
  deriving DecidableEq, Repr

/-- `OPK`, the kind of the last accepted command (R35). -/
inductive OpKind where
  /-- None since reset. -/
  | none
  | nop
  | wrsym
  | cfg
  | enc
  | wrin
  | dec
  /-- A reserved opcode was accepted. -/
  | ill
  deriving DecidableEq, Repr

/-- The error codes of `60_exceptions.md` R181. Codes 13 to 15 are never written and have no constructor
(V9; DEDUCED, log entry 14). -/
inductive ErrCode where
  /-- `E_OK`, code 0. -/
  | ok
  /-- `E_ALPHA_FEW`, code 1: CFG with n < 16. -/
  | alphaFew
  /-- `E_ALPHA_MANY`, code 2: CFG with n > 256. -/
  | alphaMany
  /-- `E_ALPHA_DUP`, code 3: CFG with a repeated symbol. -/
  | alphaDup
  /-- `E_ENC_RANGE`, code 4: never written by hardware, reserved for a host driver (R117). -/
  | encRange
  /-- `E_ENC_LEN`, code 5: ACC not 0 after W division steps (unreachable, R115). -/
  | encLen
  /-- `E_DEC_LEN`, code 6: DEC with len not W. -/
  | decLen
  /-- `E_DEC_CHAR`, code 7: DEC of a symbol with no index. -/
  | decChar
  /-- `E_DEC_RANGE`, code 8: DEC of a value of 2^128 or more. -/
  | decRange
  /-- `E_NOCFG`, code 9: ENC or DEC on an unconfigured block. -/
  | noCfg
  /-- `E_LOCKED`, code 10: WRSYM or CFG on a configured block. -/
  | locked
  /-- `E_BADIDX`, code 11: a table index out of range. -/
  | badIdx
  /-- `E_ILLCMD`, code 12: a reserved opcode. -/
  | illCmd
  deriving DecidableEq, Repr

/-- What the host drives on the input ports `reset`, `cmd_valid` and `cmd` (R41) in one step. -/
structure PortIn where
  /-- The `reset` input, a level (`70_reset_and_hazards.md` R205). -/
  reset    : Bool
  /-- `cmd_valid`: the host offers the beat on `cmd` (`30_encoding.md` R81). -/
  cmdValid : Bool
  /-- `cmd[147:0]`. -/
  cmd      : Beat
  /-- The host's resolve, no port of the block: true for a host that keeps `cmd_valid` and `cmd` steady until the step
  that accepts the beat (`70_reset_and_hazards.md` R215), false for an offer of this one step (DESIGN CHOICE, log entry
  11). -/
  held     : Bool
  deriving DecidableEq, Repr

/-- The complete state of one instance (R20), and the model's own two fields at the end. -/
structure State where
  /-- `FWD`, the forward map, 256 entries (R30). -/
  fwd     : Memory
  /-- `RVALID` and `RIDX` read as the partial map `REV` from symbol codes to indexes (R31, R32; DEDUCED, log entry 5). -/
  rev     : Memory
  /-- `B`, 9 bits, the radix, 0 when unconfigured (R27). -/
  b       : BitVec 9
  /-- `W`, 6 bits, the encoded width, 0 when unconfigured (R28). -/
  w       : BitVec 6
  /-- `CFG_OK`, the alphabet is built and locked (R29). -/
  cfgOk   : Bool
  /-- `PHASE` (R26). -/
  phase   : Phase
  /-- `CNT`, 9 bits, the digit steps done (R23). -/
  cnt     : BitVec 9
  /-- `LEN`, 16 bits, the operand of the running CFG or DEC (R24). -/
  len     : Idx
  /-- `ACC`, 136 bits, quotient of the encoder and accumulator of the decoder (R22). -/
  acc     : AccWord
  /-- `IBUF`, the decoder's input string, 32 entries (R33). -/
  ibuf    : Memory
  /-- `OBUF`, the encoder's output string, 32 entries (R34). -/
  obuf    : Memory
  /-- `OPK`, the kind of the last accepted command (R35). -/
  opk     : OpKind
  /-- `ERR`, the error code of the last accepted command (R36). -/
  err     : ErrCode
  /-- `ERRINFO`, 16 bits, the detail of the error (R37). -/
  errInfo : Idx
  /-- `RES_V`: `ACC[127:0]` is a decode result (R38). -/
  resV    : Bool
  /-- `OBUF_V`: `OBUF[0..W-1]` is an encode result (R39). -/
  obufV   : Bool
  /-- THE MODEL'S OWN. What the host will drive on the input ports, the coming step's first; when the list is empty
  the host drives `reset` = 0 and `cmd_valid` = 0 (DESIGN CHOICE, log entry 1). -/
  inputs  : List PortIn
  /-- THE MODEL'S OWN. The number of resets so far: each reset draws its unspecified values from it (DESIGN
  CHOICE, log entry 4). -/
  resets  : Nat
  deriving DecidableEq, Repr

/-- Why the machine stops. The spec gives no stop (`60_exceptions.md` R193). Each constructor names a condition under
which no rule applies or a value does not fit: no reachable state meets it, so each stop is safe (DEDUCED,
log entry 9). -/
inductive Fault where
  /-- Raised by a run step (`cfgRunStep`, `encRunStep`, `decRunStep`) whose PHASE, CNT, LEN and W fall under none of
  R93 to R96, R111, R112, R127 to R129. Safe. -/
  | noRuleApplies
  /-- Raised by a run step that would read FWD or IBUF or write OBUF at an index the table does not have; R59 says the
  core's own accesses are always in range. Safe. -/
  | tableIndexOutOfRange
  /-- Raised by the encoder's division step when B is 0; R27 says the divisor is never zero. Safe. -/
  | zeroDivisor
  /-- Raised by the decoder's Horner step when the exact result does not fit 136 bits; R131 says it always fits, and R14
  that no rule truncates a value that does not fit. Safe. -/
  | accDoesNotFit
  deriving DecidableEq, Repr

/-- Why a command has no meaning. -/
inductive Refusal where
  /-- Raised by an arm of `exec` whose command is not modelled yet. Safe. No arm of this package raises it. -/
  | notModelled (mnemonic : String)
  deriving DecidableEq, Repr

/-- What a step answers. -/
abbrev Result := Host.Outcome State Fault Refusal

/-- The state right after reset (R43, R206). `ACC`, which R43 leaves unspecified, is 0 here (DESIGN CHOICE, log entry 3);
the tables list nothing, so an entry of FWD, IBUF or OBUF is a free value until it is written (log entry 2). -/
def State.reset : State where
  fwd     := []
  rev     := []
  b       := 0
  w       := 0
  cfgOk   := false
  phase   := .idle
  cnt     := 0
  len     := 0
  acc     := 0
  ibuf    := []
  obuf    := []
  opk     := .none
  err     := .ok
  errInfo := 0
  resV    := false
  obufV   := false
  inputs  := []
  resets  := 0

end Sys2Proof.Machine
end

