-- ==== Sys2Proof/Machine/Operands.lean ====
section
/-! DEFINITION. Operands and the arithmetic the rules do on them: the index ranges of WRSYM and WRIN
(`20_memory.md` R59), the width function W(B) (`40_configuration.md` R98), place values (R55), and the values placed in
registers. A command's operands are used unextended and unsigned (`30_encoding.md` R73). -/

namespace Sys2Proof.Machine

/-- `idx` names an FWD entry, 0..255 (R51, R59). -/
def fwdIndexOk (idx : Idx) : Bool := decide (idx.toNat < 256)

/-- `idx` names an IBUF entry, 0..31 (R53, R59). -/
def ibufIndexOk (idx : Idx) : Bool := decide (idx.toNat < 32)

/-- The least w' among w, w+1, ..., w+fuel with b^w' >= 2^128; w+fuel if only it may be one. -/
def leastWidthFrom (b : Nat) : Nat → Nat → Nat
  | 0, w => w
  | fuel + 1, w => if 2 ^ 128 ≤ b ^ w then w else leastWidthFrom b fuel (w + 1)

/-- W(B), the least w such that B^w >= 2^128 (R98); for B >= 2 it is at most 128. -/
def width (b : Nat) : Nat := leastWidthFrom b 128 0

/-- The complete table of R98, a row being the first and the last B and their W. -/
def widthTable : List (Nat × Nat × Nat) :=
  [ (16, 17, 32), (18, 19, 31), (20, 21, 30), (22, 23, 29), (24, 26, 28), (27, 30, 27), (31, 34, 26), (35, 40, 25),
    (41, 47, 24), (48, 56, 23), (57, 68, 22), (69, 84, 21), (85, 106, 20), (107, 138, 19), (139, 184, 18),
    (185, 255, 17), (256, 256, 16) ]

/-- `zext_136(value)` (R110). -/
def zextAcc (v : Value) : AccWord := v.setWidth 136

/-- `zext_16` of a 9-bit count, for ERRINFO (R184). -/
def zextIdx (c : BitVec 9) : Idx := c.setWidth 16

/-- `CNT[7:0]`, the index the CFG scan stores (R95). -/
def low8 (c : BitVec 9) : BitVec 8 := c.setWidth 8

/-- The value of a digit string, most significant digit first: the sum of each digit times its place value B^k, k the
number of digits to its right (R55). -/
def placeValue (b : Nat) : List Nat → Nat
  | [] => 0
  | d :: ds => d * b ^ ds.length + placeValue b ds

/-- The digit of v at position j of a string of w base-b digits, most significant first: (v div b^(w-1-j)) mod b
(R113). -/
def digitAt (b w v j : Nat) : Nat := v / b ^ (w - 1 - j) % b

end Sys2Proof.Machine
end

