-- ==== Sys2Proof/Machine/Ops.lean ====
section
/-! DEFINITION. The named operations over the tables and registers: one entry of a table is read or written whole
(`20_memory.md` R56), a command's error is recorded (`60_exceptions.md` R185, the analogue of taking an exception),
a running command completes (R186), and the block resets (`10_state.md` R43). There is no return from an error: an
error needs no acknowledgement (R192). -/

namespace Sys2Proof.Machine

/-- The entry written at index a, if any. -/
def Memory.read? : Memory → Nat → Option (BitVec 8)
  | [], _ => none
  | (k, v) :: m, a => if k = a then some v else Memory.read? m a

/-- Write the whole entry at index a. -/
def Memory.write : Memory → Nat → BitVec 8 → Memory
  | [], a, v => [(a, v)]
  | (k, x) :: m, a, v =>
    if a < k then (a, v) :: (k, x) :: m
    else if a = k then (a, v) :: m
    else (k, x) :: Memory.write m a v

/-- The canonical form: indexes strictly rising, so that equal tables are equal lists. -/
abbrev Memory.wf (m : Memory) : Prop := m.Pairwise fun c d => c.1 < d.1

/-- Every entry has an index below n. -/
abbrev Memory.within (m : Memory) (n : Nat) : Prop := ∀ c ∈ m, c.1 < n

/-- `FWD[i]` (R30): what was written, or a free value, stable until written. -/
def State.fwdAt (s : State) (i : Nat) : Sym := (s.fwd.read? i).getD (Config.freeFwd s.resets i)

/-- `IBUF[j]` (R33): what was written, or a free value, stable until written. -/
def State.ibufAt (s : State) (j : Nat) : Sym := (s.ibuf.read? j).getD (Config.freeIbuf s.resets j)

/-- What `OBUF[j]` holds (R34): what ENC wrote, or a free value. -/
def State.obufAt (s : State) (j : Nat) : Sym := (s.obuf.read? j).getD (Config.freeObuf s.resets j)

/-- `REV(sym)` (R32): `some i` when `RVALID[sym] = 1` with `i = RIDX[sym]`, else `none`. -/
def State.revAt (s : State) (sym : Sym) : Option (BitVec 8) := s.rev.read? sym.toNat

/-- `FWD[i] <- sym`. -/
def State.setFwd (s : State) (i : Nat) (sym : Sym) : State := { s with fwd := s.fwd.write i sym }

/-- `IBUF[j] <- sym`. -/
def State.setIbuf (s : State) (j : Nat) (sym : Sym) : State := { s with ibuf := s.ibuf.write j sym }

/-- `OBUF[j] <- sym`. -/
def State.setObuf (s : State) (j : Nat) (sym : Sym) : State := { s with obuf := s.obuf.write j sym }

/-- `RVALID[sym] <- 1; RIDX[sym] <- i`. -/
def State.setRev (s : State) (sym : Sym) (i : BitVec 8) : State := { s with rev := s.rev.write sym.toNat i }

/-- `RVALID[s] <- 0` for every s. -/
def State.clearRev (s : State) : State := { s with rev := [] }

/-- What an accept step writes of the status registers: the command's kind, its error code and the detail (R90, R35 to
R37). -/
def State.report (s : State) (k : OpKind) (code : ErrCode) (info : Idx) : State :=
  { s with opk := k, err := code, errInfo := info }

/-- An accept-time fault writes OPK, ERR and ERRINFO and nothing else; PHASE stays IDLE (R185). -/
def State.acceptFault (s : State) (k : OpKind) (code : ErrCode) (info : Idx) : State := s.report k code info

/-- An accept step that finds no error: `ERR <- E_OK; ERRINFO <- 0` (R184). -/
def State.acceptOk (s : State) (k : OpKind) : State := s.report k .ok 0

/-- An executing command starts to run: `CNT <- 0` and PHASE names the command (R16, R23). -/
def State.startRun (s : State) (p : Phase) : State := { s with cnt := 0, phase := p }

/-- `CNT <- CNT + 1` (R23). -/
def State.countStep (s : State) : State := { s with cnt := s.cnt + 1 }

/-- `complete(code, info)` (R186): `ERR <- code; ERRINFO <- info; PHASE <- IDLE`. -/
def State.complete (s : State) (code : ErrCode) (info : Idx) : State :=
  { s with err := code, errInfo := info, phase := .idle }

/-- The block goes to the reset state, by RST or by the `reset` input (`70_reset_and_hazards.md` R205): every piece of
state takes its reset value (R43); FWD, IBUF, OBUF and ACC become unspecified, each a free value of this reset (V8). What
the host will drive is no state of the block and stays. -/
def State.toReset (s : State) : State :=
  { State.reset with acc := Config.freeAcc s.resets, inputs := s.inputs, resets := s.resets + 1 }

/-- Run f on the next state, if there is one. -/
def andThen (r : Result) (f : State → Result) : Result :=
  match r with
  | .next s => f s
  | .fault e => .fault e
  | .refused e => .refused e

end Sys2Proof.Machine
end

