-- ==== Sys2Proof/Machine/Flags.lean ====
section
/-! DEFINITION. The flags (`10_state.md` R46), the numeric encodings of PHASE, OPK and ERR (R26, R35,
`60_exceptions.md` R181), and the output ports (R40, R41). There are no arithmetic condition codes (R46). -/

namespace Sys2Proof.Machine

/-- `RES_V <- 0; OBUF_V <- 0`, in the accept step of every ENC and DEC that runs (R38, R39). -/
def State.clearResults (s : State) : State := { s with resV := false, obufV := false }

/-- `RES_V <- 1`, by a DEC that completes with `E_OK` (R38). -/
def State.setResV (s : State) : State := { s with resV := true }

/-- `OBUF_V <- 1`, by an ENC that completes with `E_OK` (R39). -/
def State.setObufV (s : State) : State := { s with obufV := true }

/-- `B <- n; W <- W(n); CFG_OK <- 1`: the alphabet is built and locked (R96, R29). -/
def State.lockAlphabet (s : State) (n : Nat) : State :=
  { s with b := BitVec.ofNat 9 n, w := BitVec.ofNat 6 (width n), cfgOk := true }

/-- The 2-bit encoding of PHASE (R26). -/
def Phase.code : Phase → BitVec 2
  | .idle => 0
  | .cfgRun => 1
  | .encRun => 2
  | .decRun => 3

/-- The 3-bit encoding of OPK (R35). -/
def OpKind.code : OpKind → BitVec 3
  | .none => 0
  | .nop => 1
  | .wrsym => 2
  | .cfg => 3
  | .enc => 4
  | .wrin => 5
  | .dec => 6
  | .ill => 7

/-- The 4-bit error code (R181). -/
def ErrCode.code : ErrCode → BitVec 4
  | .ok => 0
  | .alphaFew => 1
  | .alphaMany => 2
  | .alphaDup => 3
  | .encRange => 4
  | .encLen => 5
  | .decLen => 6
  | .decChar => 7
  | .decRange => 8
  | .noCfg => 9
  | .locked => 10
  | .badIdx => 11
  | .illCmd => 12

/-- `cmd_ready = (PHASE = IDLE)` (R40). -/
def State.cmdReady (s : State) : Bool := decide (s.phase = .idle)

/-- `done = (PHASE = IDLE and OPK != NONE)` (R40). -/
def State.done (s : State) : Bool := decide (s.phase = .idle) && decide (s.opk ≠ .none)

/-- The decoded value `ACC[127:0]`, while there is one to read: `RES_V = 1` and `PHASE = IDLE` (R38, `42_decode.md`
R135). -/
def State.decodedValue (s : State) : Option Value :=
  if s.resV = true ∧ s.phase = .idle then some (s.acc.setWidth 128) else none

/-- The encoded string `OBUF[0], ..., OBUF[W-1]`, while there is one to read: `OBUF_V = 1` and `PHASE = IDLE` (R39,
`41_encode.md` R118). -/
def State.encodedString (s : State) : Option (List Sym) :=
  if s.obufV = true ∧ s.phase = .idle then some ((List.range s.w.toNat).map s.obufAt) else none

/-- What the port `RES` shows at the observation number k: the decoded value, or while the port is unspecified any value
(R38, V2; DESIGN CHOICE, log entry 6). -/
def State.resPort (s : State) (k : Nat) : Value := s.decodedValue.getD (Config.freeResPort k)

/-- What the port `OBUF[j]` shows at the observation number k: the symbol of the encoded string, or while the port is
unspecified, which entries W..31 always are, any value (R34, R39, V3; DESIGN CHOICE, log entry 6). -/
def State.obufPort (s : State) (k j : Nat) : Sym :=
  (s.encodedString.bind fun str => str[j]?).getD (Config.freeObufPort k j)

/-- The output ports of R41. -/
structure Ports where
  cmdReady : Bool
  done     : Bool
  opk      : BitVec 3
  err      : BitVec 4
  errInfo  : Idx
  cfgOk    : Bool
  b        : BitVec 9
  w        : BitVec 6
  resV     : Bool
  res      : Value
  obufV    : Bool
  obuf     : List Sym
  deriving DecidableEq, Repr

/-- What the host sees at its observation number k. Reading a port has no side effect, and reading it twice in one
observation gives the same (R41, `20_memory.md` R60). -/
def State.ports (s : State) (k : Nat) : Ports where
  cmdReady := s.cmdReady
  done     := s.done
  opk      := s.opk.code
  err      := s.err.code
  errInfo  := s.errInfo
  cfgOk    := s.cfgOk
  b        := s.b
  w        := s.w
  resV     := s.resV
  res      := s.resPort k
  obufV    := s.obufV
  obuf     := (List.range 32).map (s.obufPort k)

end Sys2Proof.Machine
end

