-- ==== Sys2Proof/Machine/Configuration.lean ====
section
/-! DEFINITION. The configuration family (`40_configuration.md`): WRSYM, CFG, and the run steps of CFG. -/

namespace Sys2Proof.Machine

/-- WRSYM idx, sym (R91): locked first, then the index range, else `FWD[idx] <- sym`. -/
def execWrsym (idx : Idx) (sym : Sym) (s : State) : Result :=
  if s.cfgOk then .next (s.acceptFault .wrsym .locked idx)
  else if fwdIndexOk idx then .next ((s.setFwd idx.toNat sym).acceptOk .wrsym)
  else .next (s.acceptFault .wrsym .badIdx idx)

/-- CFG n, the accept step (R92). -/
def execCfg (n : Idx) (s : State) : Result :=
  if s.cfgOk then .next (s.acceptFault .cfg .locked 0)
  else .next ((({ s with len := n }).clearRev.acceptOk .cfg).startRun .cfgRun)

/-- CFG scan step (R95): the symbol `FWD[CNT]` is a duplicate, or gets the index CNT. -/
def cfgScan (s : State) : Result :=
  let sym := s.fwdAt s.cnt.toNat
  match s.revAt sym with
  | some _ => .next (s.clearRev.complete .alphaDup (zextIdx s.cnt))
  | none => .next (s.setRev sym (low8 s.cnt)).countStep

/-- One step of the core in `PHASE = CFG_RUN`: too few symbols (R93), too many (R94), scan (R95), finish (R96). -/
def cfgRunStep (s : State) : Result :=
  if s.cnt = 0 ∧ s.len.toNat < 16 then .next (s.complete .alphaFew s.len)
  else if s.cnt = 0 ∧ 256 < s.len.toNat then .next (s.complete .alphaMany s.len)
  else if s.len.toNat < 16 ∨ 256 < s.len.toNat then .fault .noRuleApplies
  else if s.cnt.toNat < s.len.toNat then cfgScan s
  else if s.cnt.toNat = s.len.toNat then .next ((s.lockAlphabet s.len.toNat).complete .ok 0)
  else .fault .noRuleApplies

end Sys2Proof.Machine
end

