-- ==== Sys2Proof/Machine/Decoder.lean ====
section
/-! DEFINITION. The decode family (`42_decode.md`): WRIN, DEC, and the run steps of DEC, the Horner accumulator. -/

namespace Sys2Proof.Machine

/-- WRIN idx, sym (R125); legal whether or not the block is configured. -/
def execWrin (idx : Idx) (sym : Sym) (s : State) : Result :=
  if ibufIndexOk idx then .next ((s.setIbuf idx.toNat sym).acceptOk .wrin)
  else .next (s.acceptFault .wrin .badIdx idx)

/-- DEC len, the accept step (R126). -/
def execDec (len : Idx) (s : State) : Result :=
  if s.cfgOk then
    .next ((({ s with len := len, acc := 0 }).clearResults.acceptOk .dec).startRun .decRun)
  else .next (s.acceptFault .dec .noCfg 0)

/-- DEC digit step (R128): the leftmost symbol with no index ends the command; else `ACC <- ACC * B + d`, exact. -/
def decDigit (s : State) : Result :=
  if 32 ≤ s.cnt.toNat then .fault .tableIndexOutOfRange
  else
    match s.revAt (s.ibufAt s.cnt.toNat) with
    | none => .next (s.complete .decChar (zextIdx s.cnt))
    | some d =>
      let v := s.acc.toNat * s.b.toNat + d.toNat
      if 2 ^ 136 ≤ v then .fault .accDoesNotFit
      else .next ({ s with acc := BitVec.ofNat 136 v }).countStep

/-- DEC finish step, the range check `ACC[135:128] != 0` (R129). -/
def decFinish (s : State) : Result :=
  if s.acc.extractLsb' 128 8 ≠ 0 then .next (s.complete .decRange 0)
  else .next (s.setResV.complete .ok 0)

/-- One step of the core in `PHASE = DEC_RUN`: the length check (R127) before any symbol is read, then the digits
(R128), then the range (R129). -/
def decRunStep (s : State) : Result :=
  if s.cnt = 0 ∧ s.len.toNat ≠ s.w.toNat then .next (s.complete .decLen s.len)
  else if s.len.toNat ≠ s.w.toNat then .fault .noRuleApplies
  else if s.cnt.toNat < s.w.toNat then decDigit s
  else if s.cnt.toNat = s.w.toNat then decFinish s
  else .fault .noRuleApplies

end Sys2Proof.Machine
end

