-- ==== Sys2Proof/Machine/Encoder.lean ====
section
/-! DEFINITION. The encode family (`41_encode.md`): ENC and its run steps, the repeated division by B. -/

namespace Sys2Proof.Machine

/-- ENC value, the accept step (R110). -/
def execEnc (value : Value) (s : State) : Result :=
  if s.cfgOk then
    .next ((({ s with acc := zextAcc value }).clearResults.acceptOk .enc).startRun .encRun)
  else .next (s.acceptFault .enc .noCfg 0)

/-- ENC digit step (R111): divide ACC by B, store the symbol of the remainder at `OBUF[W-1-CNT]`. -/
def encDigit (s : State) : Result :=
  if s.b = 0 then .fault .zeroDivisor
  else
    let q := s.acc.toNat / s.b.toNat
    let r := s.acc.toNat % s.b.toNat
    let j := s.w.toNat - 1 - s.cnt.toNat
    if 256 ≤ r ∨ 32 ≤ j then .fault .tableIndexOutOfRange
    else .next ({ s.setObuf j (s.fwdAt r) with acc := BitVec.ofNat 136 q }).countStep

/-- ENC finish step (R112). -/
def encFinish (s : State) : Result :=
  if s.acc ≠ 0 then .next (s.complete .encLen 0)
  else .next (s.setObufV.complete .ok 0)

/-- One step of the core in `PHASE = ENC_RUN`. -/
def encRunStep (s : State) : Result :=
  if s.cnt.toNat < s.w.toNat then encDigit s
  else if s.cnt.toNat = s.w.toNat then encFinish s
  else .fault .noRuleApplies

end Sys2Proof.Machine
end

