-- ==== Sys2Proof/Machine/System.lean ====
section
/-! DEFINITION. The system family (`43_system.md`): NOP, RST and the nine reserved opcodes. -/

namespace Sys2Proof.Machine

/-- NOP (R145). -/
def execNop (s : State) : Result := .next (s.acceptOk .nop)

/-- RST (R146): the reset state, as by the `reset` input. -/
def execRst (s : State) : Result := .next s.toReset

/-- ILL(op) (R147, `30_encoding.md` R75): an accept-time fault `E_ILLCMD` with the opcode as detail. -/
def illegalCommand (op : Idx) (s : State) : Result := .next (s.acceptFault .ill .illCmd op)

/-- Reserved opcode 0x6 (R147). -/
def execIll6 (s : State) : Result := illegalCommand 6 s

/-- Reserved opcode 0x7 (R147). -/
def execIll7 (s : State) : Result := illegalCommand 7 s

/-- Reserved opcode 0x8 (R147). -/
def execIll8 (s : State) : Result := illegalCommand 8 s

/-- Reserved opcode 0x9 (R147). -/
def execIll9 (s : State) : Result := illegalCommand 9 s

/-- Reserved opcode 0xA (R147). -/
def execIllA (s : State) : Result := illegalCommand 10 s

/-- Reserved opcode 0xB (R147). -/
def execIllB (s : State) : Result := illegalCommand 11 s

/-- Reserved opcode 0xC (R147). -/
def execIllC (s : State) : Result := illegalCommand 12 s

/-- Reserved opcode 0xD (R147). -/
def execIllD (s : State) : Result := illegalCommand 13 s

/-- Reserved opcode 0xE (R147). -/
def execIllE (s : State) : Result := illegalCommand 14 s

end Sys2Proof.Machine
end

