-- ==== Sys2Proof/Machine/Dispatch.lean ====
section
/-! DEFINITION. The accept step of a command: one arm per constructor of Instr, each one call of its meaning. -/

namespace Sys2Proof.Machine

def exec (i : Instr) (s : State) : Host.Outcome State Fault Refusal :=
  match i with
  | .nop => Sys2Proof.Machine.execNop s
  | .wrsym idx sym => Sys2Proof.Machine.execWrsym idx sym s
  | .cfg n => Sys2Proof.Machine.execCfg n s
  | .enc value => Sys2Proof.Machine.execEnc value s
  | .wrin idx sym => Sys2Proof.Machine.execWrin idx sym s
  | .dec len => Sys2Proof.Machine.execDec len s
  | .ill6 => Sys2Proof.Machine.execIll6 s
  | .ill7 => Sys2Proof.Machine.execIll7 s
  | .ill8 => Sys2Proof.Machine.execIll8 s
  | .ill9 => Sys2Proof.Machine.execIll9 s
  | .illA => Sys2Proof.Machine.execIllA s
  | .illB => Sys2Proof.Machine.execIllB s
  | .illC => Sys2Proof.Machine.execIllC s
  | .illD => Sys2Proof.Machine.execIllD s
  | .illE => Sys2Proof.Machine.execIllE s
  | .rst => Sys2Proof.Machine.execRst s

end Sys2Proof.Machine
end

