-- ==== Sys2Proof/Machine/Sequencer.lean ====
section
/-! DEFINITION. The sequencer: one step of the core while a command runs, and the handshake of the command port with
what the host drives (`30_encoding.md` R81, `60_exceptions.md` R188, `70_reset_and_hazards.md` R205 to R207, R215). -/

namespace Sys2Proof.Machine

/-- One step of the core by PHASE. A ready block with no beat to accept is idle and keeps all its state
(`60_exceptions.md` R199). A RUN phase lasts the natural number of steps (R219; DESIGN CHOICE, log entry 7). -/
def runStep (s : State) : Result :=
  match s.phase with
  | .idle => .next s
  | .cfgRun => cfgRunStep s
  | .encRun => encRunStep s
  | .decRun => decRunStep s

/-- Run the core until the block is ready, for at most so many steps. -/
def runToReady : Nat → State → Result
  | 0, s => .next s
  | n + 1, s => if s.phase = .idle then .next s else andThen (runStep s) (runToReady n)

/-- The block as the host finds it when it has waited for `cmd_ready`: a running command has completed, which it always
does (`70_reset_and_hazards.md` R220) and within 258 steps. -/
def readyState (s : State) : State :=
  match runToReady 300 s with
  | .next t => { t with phase := .idle }
  | .fault _ => { s with phase := .idle }
  | .refused _ => { s with phase := .idle }

/-- What the host drives next after a step in which a busy block has not accepted its beat: a host that holds its beat
drives it again (R215); otherwise it goes on. -/
def inputsAfterBusy (p : PortIn) (rest : List PortIn) : List PortIn :=
  if p.cmdValid && p.held then p :: rest else rest

/-- One step with the input ports driven as p. The `reset` input beats everything (R188, R207). A ready block accepts the
beat on offer and runs the accept step of its command (R81). A busy block accepts nothing; the core takes its step. -/
def stepWith (p : PortIn) (rest : List PortIn) (s : State) : Result :=
  if p.reset then .next (({ s with inputs := rest }).toReset)
  else if s.phase = .idle then
    if p.cmdValid then exec (decode p.cmd) { s with inputs := rest }
    else .next { s with inputs := rest }
  else runStep { s with inputs := inputsAfterBusy p rest }

/-- An offer of the beat that the host holds until it is accepted. -/
def PortIn.offer (c : Beat) : PortIn := { reset := false, cmdValid := true, cmd := c, held := true }

/-- The `reset` input held for one step. -/
def PortIn.resetPulse : PortIn := { reset := true, cmdValid := false, cmd := 0, held := false }

/-- The host drives nothing for one step. -/
def PortIn.quiet : PortIn := { reset := false, cmdValid := false, cmd := 0, held := false }

end Sys2Proof.Machine
end

