-- ==== Sys2Proof/Machine/Step.lean ====
section
/-! DEFINITION. One step of the machine, and a command placed where the next step accepts it. -/

namespace Sys2Proof.Machine

/-- One step: the host drives the first entry of `inputs`, or nothing when the list is empty (DESIGN CHOICE, log entry
1). -/
def step (s : State) : Host.Outcome State Fault Refusal :=
  match s.inputs with
  | [] => runStep s
  | p :: rest => stepWith p rest s

/-- The host has waited until the block is ready and offers the beat w (its low nbits bits) in the next step. On a ready
block this changes nothing but `inputs`. -/
def State.withFetchWord (s : State) (nbits w : Nat) : State :=
  { readyState s with inputs := PortIn.offer (BitVec.ofNat 148 (w % 2 ^ nbits)) :: (readyState s).inputs }

end Sys2Proof.Machine
end

