-- ==== Sys2Proof/Machine/Driver.lean ====
section
/-! DEFINITION. The host drivers of the block: a beat offered and waited for, the pseudo-operations of
`30_encoding.md` R79 as their command beats, and `build_alphabet`, `encode_int` and `decode_string` on symbol codes
(`44_host_framing.md` R169, R170). Host software (R5): no state of the block, and nothing of `step` rests on it. -/

namespace Sys2Proof.Machine

/-- Poll until the block is ready, for at most so many steps; the host drives nothing meanwhile. -/
def waitReady : Nat → State → Result
  | 0, s => .next s
  | n + 1, s => if s.phase = .idle then .next s else andThen (step s) (waitReady n)

/-- Keep the beat on offer until a step accepts it, for at most so many steps: a busy block holds the host until the
running command completes (R81, R215). The offer stays first in `inputs` until it is accepted. -/
def waitAccepted : Nat → State → Result
  | 0, s => .next s
  | n + 1, s => if s.inputs = [] then .next s else andThen (step s) (waitAccepted n)

/-- Offer one beat, to a ready or a busy block, until it is accepted, and then wait until the block is ready again (R16,
R79, R81). Any command lasts fewer steps than the two bounds (R220). -/
def issue (c : Beat) (s : State) : Result :=
  andThen (waitAccepted 300 { s with inputs := [PortIn.offer c] }) (waitReady 300)

/-- Issue the beats one after the other. -/
def issueAll : List Beat → State → Result
  | [], s => .next s
  | c :: cs, s => andThen (issue c s) (issueAll cs)

/-- The 16-bit operand a host presents for a count or a length: 0xFFFF for a larger number (R82). -/
def saturate (n : Nat) : Idx := BitVec.ofNat 16 (min n 65535)

/-- `WRSYM i, s[i]` for the first 256 symbols, in order (R79). -/
def writeSymbolBeats (syms : List Sym) : List Beat :=
  (syms.take 256).mapIdx fun i c => encode (.wrsym (BitVec.ofNat 16 i) c)

/-- BUILD_ALPHABET of n symbols, of which the first min(n, 256) are given (R79, R169). -/
def buildAlphabetBeats (syms : List Sym) (n : Nat) : List Beat := writeSymbolBeats syms ++ [encode (.cfg (saturate n))]

/-- LOAD_STRING s[0..m-1]: `WRIN j, s[j]` for the first 32 symbols, in order (R79). -/
def loadStringBeats (syms : List Sym) : List Beat :=
  (syms.take 32).mapIdx fun j c => encode (.wrin (BitVec.ofNat 16 j) c)

/-- DECODE_STRING s[0..m-1] (R79). -/
def decodeStringBeats (syms : List Sym) : List Beat := loadStringBeats syms ++ [encode (.dec (saturate syms.length))]

/-- What a driver answers: a value or an error code, and the block afterwards. `none` when the machine stopped or shows no
`done`, or there is no result to read. -/
abbrev Reply (α : Type) := Option (Except ErrCode α × State)

/-- Issue the beats, see `done = 1`, then read ERR, and the result when it is `E_OK` (R64, R79, R211). -/
def call {α : Type} (beats : List Beat) (read : State → Option α) (s : State) : Reply α :=
  match issueAll beats s with
  | .next t =>
    if t.done = false then none
    else if t.err = .ok then (read t).map fun a => (.ok a, t)
    else some (.error t.err, t)
  | .fault _ => none
  | .refused _ => none

/-- `build_alphabet` of n symbols, of which the first min(n, 256) are given: no WRSYM carries another (R169). The answer
is the radix B and the width W. -/
def buildAlphabetOf (syms : List Sym) (n : Nat) (s : State) : Reply (Nat × Nat) :=
  call (buildAlphabetBeats syms n) (fun t => some (t.b.toNat, t.w.toNat)) s

/-- `build_alphabet(symbols)` (R169). -/
def buildAlphabet (syms : List Sym) (s : State) : Reply (Nat × Nat) := buildAlphabetOf syms syms.length s

/-- `encode_int(value)` (R170): a host integer above 2^128 - 1 is rejected by the host with `E_ENC_RANGE` and no
command is issued (`41_encode.md` R117). -/
def encodeInt (value : Nat) (s : State) : Reply (List Sym) :=
  if 2 ^ 128 ≤ value then some (.error .encRange, s)
  else call [encode (.enc (BitVec.ofNat 128 value))] State.encodedString s

/-- `decode_string(s)` (R170). -/
def decodeString (syms : List Sym) (s : State) : Reply Value := call (decodeStringBeats syms) State.decodedValue s

end Sys2Proof.Machine
end

