-- ==== Sys2Proof/Machine/Framing.lean ====
section
/-! DEFINITION. The UUID framing layer (`44_host_framing.md`): pure functions of the host around the block's ENC and DEC
(R5, R155). Text is a list of characters; a string of alphabet symbols is a list of graphemes, which the host has
already segmented (R6). -/

namespace Sys2Proof.Machine

/-- The value of a hexadecimal digit, either case (R156, R159). -/
def hexDigitValue (c : Char) : Option Nat :=
  let n := c.toNat
  if 48 ≤ n ∧ n ≤ 57 then some (n - 48)
  else if 97 ≤ n ∧ n ≤ 102 then some (n - 87)
  else if 65 ≤ n ∧ n ≤ 70 then some (n - 55)
  else none

/-- The opening brace of R156, code point 0x7B. -/
def leftBrace : Char := Char.ofNat 123

/-- The closing brace of R156, code point 0x7D. -/
def rightBrace : Char := Char.ofNat 125

/-- The text without its single leading and single trailing brace, if it begins with one (R156). -/
def unbrace (text : List Char) : Option (List Char) :=
  match text with
  | [] => some []
  | c :: rest =>
    if c = leftBrace then (if rest.getLast? = some rightBrace then some rest.dropLast else none) else some (c :: rest)

/-- The 32 characters of a hyphenated or an unhyphenated form (R156). -/
def stripHyphens (t : List Char) : Option (List Char) :=
  if t.length = 32 then some t
  else if t.length = 36 ∧ t[8]? = some '-' ∧ t[13]? = some '-' ∧ t[18]? = some '-' ∧ t[23]? = some '-' then
    some (t.take 8 ++ (t.drop 9).take 4 ++ (t.drop 14).take 4 ++ (t.drop 19).take 4 ++ t.drop 24)
  else none

/-- `normalize_uuid_input` on a string (R156 to R158): the bare 32 hexadecimal digits of one of the four shapes; `none`
is `InvalidUUID`. -/
def normalizeUuid (text : List Char) : Option (List Char) :=
  match (unbrace text).bind stripHyphens with
  | some h => if h.all fun c => (hexDigitValue c).isSome then some h else none
  | none => none

/-- What a caller hands to `encode` (R156, R157). -/
inductive UuidInput where
  /-- A string, its characters. -/
  | text (cs : List Char)
  /-- A raw binary, its bytes; a 16-byte binary UUID is one (`90_conflicts.md` C13). -/
  | binary (bytes : List (BitVec 8))
  /-- Any other value that is no string. -/
  | notString
  deriving DecidableEq, Repr

/-- `normalize_uuid_input` on any input: what is no string is none of the four shapes (R157). -/
def normalizeUuidInput : UuidInput → Option (List Char)
  | .text cs => normalizeUuid cs
  | .binary _ => none
  | .notString => none

/-- The value of a hexadecimal numeral, first digit most significant (R159). -/
def hexValue (h : List Char) : Nat := placeValue 16 (h.filterMap hexDigitValue)

/-- The lower-case hexadecimal digit of a nibble. -/
def hexDigit (n : Nat) : Char := if n < 10 then Char.ofNat (48 + n) else Char.ofNat (87 + n)

/-- The 32 lower-case digits of v, most significant first, leading zeros kept (R164). -/
def hexDigits (v : Value) : List Char := (List.range 32).map fun k => hexDigit (digitAt 16 32 v.toNat k)

/-- A hyphen after `h[7]`, `h[11]`, `h[15]` and `h[19]` (R156, R164). -/
def hyphenate (h : List Char) : List Char :=
  h.take 8 ++ ['-'] ++ (h.drop 8).take 4 ++ ['-'] ++ (h.drop 12).take 4 ++ ['-'] ++ (h.drop 16).take 4 ++ ['-'] ++ h.drop 20

/-- The canonical form 8-4-4-4-12 (R164). -/
def formatUuid (v : Value) : List Char := hyphenate (hexDigits v)

/-- One Unicode grapheme cluster, its code points (R10, R171). Two clusters are the same symbol when their code points
are the same: canonically equivalent sequences of different code points are different symbols, where
`91_not_in_source.md` N2 and U9 leave it open (DESIGN CHOICE, log entry 17). -/
abbrev Grapheme := List Char

/-- The host's grapheme-to-code mapping (R171). -/
abbrev CodeMap := List (Grapheme × Sym)

/-- The code of a grapheme, if the mapping has one; graphemes are compared by their code points (DESIGN CHOICE, log entry
17). -/
def codeOf? (m : CodeMap) (g : Grapheme) : Option Sym := (m.find? fun p => decide (p.1 = g)).map Prod.snd

/-- The grapheme of a code, if the mapping has one. -/
def graphemeOf? (m : CodeMap) (c : Sym) : Option Grapheme := (m.find? fun p => decide (p.2 = c)).map Prod.fst

/-- The mapping is a function and injective, as R171 and R217 ask of the host. -/
abbrev codeMapInjective (m : CodeMap) : Prop := (m.map Prod.fst).Nodup ∧ (m.map Prod.snd).Nodup

/-- The mapping of single ASCII characters to their codes (R171). -/
def asciiMap (cs : List Char) : CodeMap := cs.map fun c => ([c], BitVec.ofNat 8 c.toNat)

/-- The default alphabet base57: digits without 0 and 1, upper case without I and O, lower case without l (R172, R173). -/
def base57 : List Char :=
  ['2', '3', '4', '5', '6', '7', '8', '9', 'A', 'B', 'C', 'D', 'E', 'F', 'G', 'H', 'J', 'K', 'L', 'M', 'N', 'P', 'Q', 'R',
   'S', 'T', 'U', 'V', 'W', 'X', 'Y', 'Z'] ++
  ['a', 'b', 'c', 'd', 'e', 'f', 'g', 'h', 'i', 'j', 'k', 'm', 'n', 'o', 'p', 'q', 'r', 's', 't', 'u', 'v', 'w', 'x', 'y',
   'z']

/-- The symbolic names of the predefined alphabets (R172). -/
inductive AlphabetName where
  | base32
  | base32Crockford
  | base32Hex
  | base32Rfc4648
  | base32Z
  | base57
  | base58
  | base62
  | base64
  | base64Url
  deriving DecidableEq, Repr

/-- The symbols of a predefined alphabet. The source gives base57 only; the host supplies the nine others, which the
model does not guess (R172, `93_implementation_defined.md` U6; DESIGN CHOICE, log entry 13). -/
def alphabetSymbols : AlphabetName → Option (List Char)
  | .base57 => some base57
  | .base32 => none
  | .base32Crockford => none
  | .base32Hex => none
  | .base32Rfc4648 => none
  | .base32Z => none
  | .base58 => none
  | .base62 => none
  | .base64 => none
  | .base64Url => none

/-- The error kinds a caller of the codec sees (R161, R163, R169, R182). -/
inductive HostError where
  /-- `InvalidUUID`: the input is none of the four shapes. -/
  | invalidUuid
  /-- `InvalidInput`: wrong length, bad character, or out of range. One kind (R163); the cause is carried for the message
  alone (R166; DESIGN CHOICE, log entry 16). -/
  | invalidInput (cause : ErrCode)
  /-- `InvalidAlphabet`, with the cause. -/
  | invalidAlphabet (cause : ErrCode)
  /-- `InternalInvariant`: the encoder's `E_ENC_LEN`, surfaced apart from the caller errors, where R161, R182, U2 and C7
  let the host choose to merge it (DESIGN CHOICE, log entry 18). -/
  | internalInvariant
  /-- A code that only a misused block gives, a bug of the host and no caller error. -/
  | driverBug (code : ErrCode)
  /-- A symbol the code mapping has no code or no grapheme for, or a machine that stopped. -/
  | noAnswer
  deriving DecidableEq, Repr

/-- The message fragment the source gives with an error (R166, R182). -/
def ErrCode.message : ErrCode → Option String
  | .alphaFew => some "too few symbols"
  | .alphaMany => some "too many symbols"
  | .alphaDup => some "duplicate symbol"
  | .encLen => some "incorrect length"
  | .decLen => some "invalid length"
  | .decChar => some "invalid character"
  | .decRange => some "out of range"
  | .ok => none
  | .encRange => none
  | .noCfg => none
  | .locked => none
  | .badIdx => none
  | .illCmd => none

/-- The error kind of a code that `build_alphabet` gives (R169). -/
def alphabetError : ErrCode → HostError
  | .alphaFew => .invalidAlphabet .alphaFew
  | .alphaMany => .invalidAlphabet .alphaMany
  | .alphaDup => .invalidAlphabet .alphaDup
  | c => .driverBug c

/-- The error kind of a code that `encode_int` gives to `encode` (R161, R182). `E_ENC_LEN` is surfaced apart and not
merged into `InvalidUUID`, as U2 and C7 let the host choose (DESIGN CHOICE, log entry 18). -/
def encodeError : ErrCode → HostError
  | .encRange => .invalidUuid
  | .encLen => .internalInvariant
  | c => .driverBug c

/-- The error kind of a code that `decode_string` gives to `decode` (R163, R182). -/
def decodeError : ErrCode → HostError
  | .decLen => .invalidInput .decLen
  | .decChar => .invalidInput .decChar
  | .decRange => .invalidInput .decRange
  | c => .driverBug c

/-- The message that renders an error kind (R166, `90_conflicts.md` C5): the fragment of its cause where the source gives
one, else any text (`91_not_in_source.md` N6; DESIGN CHOICE, log entry 16). -/
def HostError.message : HostError → String
  | .invalidUuid => Config.freeMessage 0
  | .invalidInput c => c.message.getD (Config.freeMessage 1)
  | .invalidAlphabet c => c.message.getD (Config.freeMessage 2)
  | .internalInvariant => ErrCode.encLen.message.getD (Config.freeMessage 3)
  | .driverBug c => Config.freeMessage (5 + c.code.toNat)
  | .noAnswer => Config.freeMessage 4

/-- What `build_alphabet` answered, in the kinds a caller sees (R169). -/
def alphabetAnswer (s : State) : Reply (Nat × Nat) → Except HostError (Nat × Nat) × State
  | some (.ok a, t) => (.ok a, t)
  | some (.error c, t) => (.error (alphabetError c), t)
  | none => (.error .noAnswer, s)

/-- A codec is built from an alphabet: `build_alphabet` on the codes of its first min(n, 256) symbols (R169). When one of
these has no code, a count outside 16..256 is reported all the same, since that CFG reads no symbol (`40_configuration.md`
R93, R94); with a count inside there is nothing to write (DESIGN CHOICE, log entry 12). -/
def buildCodec (m : CodeMap) (symbols : List Grapheme) (s : State) : Except HostError (Nat × Nat) × State :=
  match (symbols.take 256).mapM (codeOf? m) with
  | some codes => alphabetAnswer s (buildAlphabetOf codes symbols.length s)
  | none =>
    if symbols.length < 16 ∨ 256 < symbols.length then alphabetAnswer s (buildAlphabetOf [] symbols.length s)
    else (.error .noAnswer, s)

/-- The host's start-up code when the caller chooses no alphabet: base57, its symbols under their ASCII codes (R173,
`70_reset_and_hazards.md` R209). -/
def startUp (s : State) : Except HostError (Nat × Nat) × State := buildCodec (asciiMap base57) (base57.map fun c => [c]) s

/-- `encode(input)` (R160, R161). -/
def encodeUuid (m : CodeMap) (input : UuidInput) (s : State) : Except HostError (List Grapheme) × State :=
  match normalizeUuidInput input with
  | none => (.error .invalidUuid, s)
  | some h =>
    match encodeInt (hexValue h) s with
    | some (.error c, t) => (.error (encodeError c), t)
    | some (.ok codes, t) =>
      match codes.mapM (graphemeOf? m) with
      | some gs => (.ok gs, t)
      | none => (.error .noAnswer, t)
    | none => (.error .noAnswer, s)

/-- `decode_string` on graphemes (R162, R171). The length, counted in graphemes, is checked first: "invalid length". Then
a grapheme with no code is "invalid character", reported by the host without a DEC (R171 (b); DESIGN CHOICE, log entry
12). Otherwise the block decodes the codes. -/
def decodeGraphemes (m : CodeMap) (input : List Grapheme) (s : State) : Reply Value :=
  if input.length ≠ s.w.toNat then some (.error .decLen, s)
  else
    match input.mapM (codeOf? m) with
    | none => some (.error .decChar, s)
    | some codes => decodeString codes s

/-- `decode(input)` (R162 to R164): every failure of `decode_string` is `InvalidInput`. -/
def decodeUuid (m : CodeMap) (input : List Grapheme) (s : State) : Except HostError (List Char) × State :=
  match decodeGraphemes m input s with
  | some (.ok v, t) => (.ok (formatUuid v), t)
  | some (.error c, t) => (.error (decodeError c), t)
  | none => (.error .noAnswer, s)

/-- `encode(uuid_like_input) -> Result<String, String>` of the programmatic surface: the error side is the message
(R166). -/
def encodeResult (m : CodeMap) (input : UuidInput) (s : State) : Except String (List Grapheme) × State :=
  ((encodeUuid m input s).1.mapError HostError.message, (encodeUuid m input s).2)

/-- `decode(short_string) -> Result<String, String>` of the programmatic surface (R166). -/
def decodeResult (m : CodeMap) (input : List Grapheme) (s : State) : Except String (List Char) × State :=
  ((decodeUuid m input s).1.mapError HostError.message, (decodeUuid m input s).2)

/-- What a "!" entry point does: answers the value, or raises an error that carries the message (R165). -/
inductive Raising (α : Type) where
  | returns (a : α)
  | raises (message : String)
  deriving DecidableEq, Repr

/-- The "!" form of an answer: the same contract, a failure raised instead of tagged, with the same message (R165). -/
def surface {α : Type} : Except String α → Raising α
  | .ok a => .returns a
  | .error e => .raises e

/-- `encode!(input)` (R165, R166). -/
def encodeUuidBang (m : CodeMap) (input : UuidInput) (s : State) : Raising (List Grapheme) × State :=
  (surface (encodeResult m input s).1, (encodeResult m input s).2)

/-- `decode!(input)` (R165, R166). -/
def decodeUuidBang (m : CodeMap) (input : List Grapheme) (s : State) : Raising (List Char) × State :=
  (surface (decodeResult m input s).1, (decodeResult m input s).2)

end Sys2Proof.Machine
end

