-- ==== Sys2Proof/Machine/Assembler.lean ====
section
/-! DEFINITION. The written forms of commands: a beat as 37 hexadecimal digits `o iiii d...d` (`30_encoding.md` R70) and
the assembler syntax of R78. Host software; nothing of `step` rests on it. -/

namespace Sys2Proof.Machine

/-- The beat as hexadecimal digits, `op`, `idx` and `data` apart (R70). -/
def beatText (c : Beat) : List Char :=
  let h := (List.range 37).map fun k => hexDigit (digitAt 16 37 c.toNat k)
  h.take 1 ++ ' ' :: (h.drop 1).take 4 ++ ' ' :: h.drop 5

/-- The beat that 37 hexadecimal digits write, spaces ignored (R70). -/
def parseBeat (text : List Char) : Option Beat :=
  let h := text.filter fun c => decide (c ≠ ' ')
  if h.length = 37 ∧ (h.all fun c => (hexDigitValue c).isSome) then some (BitVec.ofNat 148 (hexValue h)) else none

/-- The value of a decimal numeral. -/
def decimalValue (ds : List Char) : Option Nat :=
  if ds = [] then none
  else if ds.all fun c => decide (48 ≤ c.toNat ∧ c.toNat ≤ 57) then
    some (placeValue 10 (ds.map fun c => c.toNat - 48))
  else none

/-- A number, decimal, or hexadecimal with `0x` (R78). -/
def parseNumber (t : List Char) : Option Nat :=
  match t with
  | '0' :: 'x' :: h => if h ≠ [] ∧ (h.all fun c => (hexDigitValue c).isSome) then some (hexValue h) else none
  | _ => decimalValue t

/-- A symbol operand: a code, or a quoted ASCII character standing for its code (R78). -/
def parseSymbol (t : List Char) : Option Nat :=
  match t with
  | ['\'', c, '\''] => if c.toNat < 128 then some c.toNat else none
  | _ => parseNumber t

/-- A number as a field of n bits, if it fits. -/
def asField (n : Nat) (v : Option Nat) : Option (BitVec n) :=
  v.bind fun k => if k < 2 ^ n then some (BitVec.ofNat n k) else none

/-- The text without leading and trailing spaces. -/
def trimSpaces (t : List Char) : List Char :=
  ((t.dropWhile fun c => decide (c = ' ')).reverse.dropWhile fun c => decide (c = ' ')).reverse

/-- The operands `idx, sym` of WRSYM and WRIN (R78). -/
def parseIndexSymbol (t : List Char) : Option (Idx × Sym) :=
  let a := t.takeWhile fun c => decide (c ≠ ',')
  match t.dropWhile fun c => decide (c ≠ ',') with
  | _ :: b =>
    match asField 16 (parseNumber (trimSpaces a)), asField 8 (parseSymbol (trimSpaces b)) with
    | some i, some c => some (i, c)
    | _, _ => none
  | [] => none

/-- The command a line of assembler text stands for (R78). The reserved opcodes have no syntax. -/
def assemble (line : List Char) : Option Instr :=
  let t := trimSpaces line
  let mnemonic := t.takeWhile fun c => decide (c ≠ ' ')
  let operands := trimSpaces (t.dropWhile fun c => decide (c ≠ ' '))
  if mnemonic = ['N', 'O', 'P'] then (if operands = [] then some .nop else none)
  else if mnemonic = ['R', 'S', 'T'] then (if operands = [] then some .rst else none)
  else if mnemonic = ['C', 'F', 'G'] then (asField 16 (parseNumber operands)).map Instr.cfg
  else if mnemonic = ['E', 'N', 'C'] then (asField 128 (parseNumber operands)).map Instr.enc
  else if mnemonic = ['D', 'E', 'C'] then (asField 16 (parseNumber operands)).map Instr.dec
  else if mnemonic = ['W', 'R', 'S', 'Y', 'M'] then (parseIndexSymbol operands).map fun p => .wrsym p.1 p.2
  else if mnemonic = ['W', 'R', 'I', 'N'] then (parseIndexSymbol operands).map fun p => .wrin p.1 p.2
  else none

end Sys2Proof.Machine
end

