-- ==== Sys2Proof/Machine/BigStep.lean ====
section
/-! DEFINITION. The one-function readings of the three executing commands: CFG (`40_configuration.md` R97), ENC
(`41_encode.md` R113) and DEC (`42_decode.md` R130). `step` does not use them: it runs the accept step and the run
steps. They say where those steps end, on every piece of state (`70_reset_and_hazards.md` R221). -/

namespace Sys2Proof.Machine

/-- The least i < n with `FWD[i] = FWD[j]` for some j < i (R95, R97). -/
def State.firstDuplicate (s : State) (n : Nat) : Option Nat :=
  (List.range n).find? fun i => (List.range i).any fun j => decide (s.fwdAt i = s.fwdAt j)

/-- `REV <- { FWD[i] -> i : i < n }` (R97). -/
def State.reverseMap (s : State) (n : Nat) : Memory :=
  (List.range n).foldl (fun m i => m.write (s.fwdAt i).toNat (BitVec.ofNat 8 i)) []

/-- CFG(n) on a ready block (R97). -/
def bigCfg (n : Idx) (s : State) : State :=
  if s.cfgOk then s.acceptFault .cfg .locked 0
  else
    let t : State := { s with opk := .cfg, err := .ok, errInfo := 0, rev := [], len := n, cnt := 0, phase := .idle }
    if n.toNat < 16 then { t with err := .alphaFew, errInfo := n }
    else if 256 < n.toNat then { t with err := .alphaMany, errInfo := n }
    else
      match s.firstDuplicate n.toNat with
      | some i => { t with err := .alphaDup, errInfo := BitVec.ofNat 16 i, cnt := BitVec.ofNat 9 i }
      | none =>
        { t with
          b     := BitVec.ofNat 9 n.toNat
          w     := BitVec.ofNat 6 (width n.toNat)
          cfgOk := true
          rev   := s.reverseMap n.toNat
          cnt   := BitVec.ofNat 9 n.toNat }

/-- `OBUF[j] <- FWD[(v div B^(W-1-j)) mod B]` for j in 0 .. W-1 (R113). -/
def State.encodedTable (s : State) (v : Value) : Memory :=
  (List.range s.w.toNat).foldl
    (fun m j => m.write j (s.fwdAt (digitAt s.b.toNat s.w.toNat v.toNat j))) s.obuf

/-- ENC(v) on a ready block (R113). -/
def bigEnc (v : Value) (s : State) : State :=
  if s.cfgOk then
    { s with
      opk     := .enc
      err     := .ok
      errInfo := 0
      resV    := false
      obufV   := true
      obuf    := s.encodedTable v
      acc     := 0
      cnt     := BitVec.ofNat 9 s.w.toNat
      phase   := .idle }
  else s.acceptFault .enc .noCfg 0

/-- The index of the input symbol at position j, if it has one. -/
def State.inputDigit (s : State) (j : Nat) : Option (BitVec 8) := s.revAt (s.ibufAt j)

/-- The least j < W with `REV(IBUF[j]) = none` (R130). -/
def State.firstBadSymbol (s : State) : Option Nat :=
  (List.range s.w.toNat).find? fun j => decide (s.inputDigit j = none)

/-- The indexes d_j of the first n input symbols, as far as they have one. -/
def State.inputDigits (s : State) (n : Nat) : List Nat :=
  (List.range n).filterMap fun j => (s.inputDigit j).map BitVec.toNat

/-- The sum over j < n of d_j * B^(n-1-j) (R130, R55). -/
def State.inputValue (s : State) (n : Nat) : Nat := placeValue s.b.toNat (s.inputDigits n)

/-- DEC(len) on a ready block (R130). -/
def bigDec (len : Idx) (s : State) : State :=
  if s.cfgOk then
    let t : State :=
      { s with opk := .dec, err := .ok, errInfo := 0, resV := false, obufV := false, len := len, acc := 0, cnt := 0,
               phase := .idle }
    if len.toNat ≠ s.w.toNat then { t with err := .decLen, errInfo := len }
    else
      match s.firstBadSymbol with
      | some j =>
        { t with err := .decChar, errInfo := BitVec.ofNat 16 j, cnt := BitVec.ofNat 9 j,
                 acc := BitVec.ofNat 136 (s.inputValue j) }
      | none =>
        let v := s.inputValue s.w.toNat
        let u : State := { t with cnt := BitVec.ofNat 9 s.w.toNat, acc := BitVec.ofNat 136 v }
        if 2 ^ 128 ≤ v then { u with err := .decRange } else { u with resV := true }
  else s.acceptFault .dec .noCfg 0

end Sys2Proof.Machine
end

