-- ==== Sys2Proof/Safety.lean ====
section
/-! DEFINITION. What holds of every reachable state (`10_state.md` R44, with what the running commands need besides), and
what a safe step is. -/

namespace Sys2Proof.Machine

/-- `FWD[0..n-1]` and REV are inverse to each other: `REV(sym) = some i` if and only if `i < n` and `FWD[i] = sym`
(R32, R103). For n <= 256 it makes the symbols `FWD[0..n-1]` pairwise distinct. -/
def State.InverseUpTo (s : State) (n : Nat) : Prop :=
  ∀ (sym : Sym) (i : BitVec 8), s.revAt sym = some i ↔ i.toNat < n ∧ s.fwdAt i.toNat = sym

/-- `OBUF[j]` is a symbol of the alphabet. -/
def State.OutputIsSymbol (s : State) (j : Nat) : Prop := ∃ d, d < s.b.toNat ∧ s.obufAt j = s.fwdAt d

/-- The form of the four tables: canonical, with indexes the table has (R50). -/
structure State.TablesOk (s : State) : Prop where
  fwdWf      : s.fwd.wf
  revWf      : s.rev.wf
  ibufWf     : s.ibuf.wf
  obufWf     : s.obuf.wf
  fwdWithin  : s.fwd.within 256
  revWithin  : s.rev.within 256
  ibufWithin : s.ibuf.within 32
  obufWithin : s.obuf.within 32

/-- What holds of every reachable state, for every state of the tables and of the host's script. -/
structure Inv (s : State) : Prop where
  /-- The form of the tables. -/
  tables     : s.TablesOk
  /-- R44 (a). -/
  unconfigured : s.cfgOk = false → s.b = 0 ∧ s.w = 0
  /-- R44 (b), R27, R28. -/
  configured : s.cfgOk = true →
    16 ≤ s.b.toNat ∧ s.b.toNat ≤ 256 ∧ s.w.toNat = width s.b.toNat ∧ s.InverseUpTo s.b.toNat
  /-- R32: unconfigured and no CFG running, REV is the empty map. -/
  revEmpty   : s.cfgOk = false → s.phase = .idle → s.rev = []
  /-- R44 (f), and a running CFG has scanned `FWD[0..CNT-1]` without a duplicate (R95). -/
  cfgRunning : s.phase = .cfgRun →
    s.cfgOk = false ∧ s.opk = .cfg ∧ s.InverseUpTo s.cnt.toNat ∧
      (s.cnt = 0 ∨ (16 ≤ s.len.toNat ∧ s.len.toNat ≤ 256 ∧ s.cnt.toNat ≤ s.len.toNat))
  /-- R44 (f), and a running ENC has CNT digits stored and W - CNT still to come (R111, R115). -/
  encRunning : s.phase = .encRun →
    s.cfgOk = true ∧ s.opk = .enc ∧ s.cnt.toNat ≤ s.w.toNat ∧
      s.acc.toNat < s.b.toNat ^ (s.w.toNat - s.cnt.toNat) ∧
      ∀ j, s.w.toNat - s.cnt.toNat ≤ j → j < s.w.toNat → s.OutputIsSymbol j
  /-- R44 (f), and a running DEC holds a value of CNT digits (R127, R131). -/
  decRunning : s.phase = .decRun →
    s.cfgOk = true ∧ s.opk = .dec ∧ s.cnt.toNat ≤ s.w.toNat ∧ (s.cnt ≠ 0 → s.len.toNat = s.w.toNat) ∧
      s.acc.toNat < s.b.toNat ^ s.cnt.toNat
  /-- R36, R38, R39: while a command runs no error is recorded and no result is valid. -/
  running    : s.phase ≠ .idle → s.err = .ok ∧ s.errInfo = 0 ∧ s.resV = false ∧ s.obufV = false
  /-- R44 (c), of the state: a decode result is a 128-bit value of a configured block. -/
  decoded    : s.resV = true → s.cfgOk = true ∧ s.acc.toNat < 2 ^ 128
  /-- R44 (d). -/
  encoded    : s.obufV = true → s.cfgOk = true ∧ ∀ j, j < s.w.toNat → s.OutputIsSymbol j
  /-- R44 (e). -/
  oneResult  : ¬(s.resV = true ∧ s.obufV = true)
  /-- R23: CNT is in 0..256. -/
  cntRange   : s.cnt.toNat ≤ 256
  /-- R181, R115: the codes the hardware never writes. -/
  errCode    : s.err ≠ .encRange ∧ s.err ≠ .encLen

/-- Every piece of state to which R43 gives a reset value has it. The pieces R43 leaves unspecified (FWD, IBUF, OBUF,
ACC) are free, and the model's own fields are not the block's. -/
structure State.HasResetValues (s : State) : Prop where
  phase   : s.phase = .idle
  cfgOk   : s.cfgOk = false
  b       : s.b = 0
  w       : s.w = 0
  rev     : ∀ sym, s.revAt sym = none
  opk     : s.opk = .none
  err     : s.err = .ok
  errInfo : s.errInfo = 0
  resV    : s.resV = false
  obufV   : s.obufV = false
  cnt     : s.cnt = 0
  len     : s.len = 0

/-- The value OPK takes when the command is accepted (R35); RST leaves NONE (R146). -/
def opKindOf : Instr → OpKind
  | .nop => .nop
  | .wrsym _ _ => .wrsym
  | .cfg _ => .cfg
  | .enc _ => .enc
  | .wrin _ _ => .wrin
  | .dec _ => .dec
  | .ill6 => .ill
  | .ill7 => .ill
  | .ill8 => .ill
  | .ill9 => .ill
  | .illA => .ill
  | .illB => .ill
  | .illC => .ill
  | .illD => .ill
  | .illE => .ill
  | .rst => .none

/-- The block is ready and the host drives nothing unless it is told to. -/
abbrev State.ReadyQuiet (s : State) : Prop := s.phase = .idle ∧ s.inputs = []

/-- The next step accepts the command i: the block is ready, and the host offers a beat of i without `reset` (R81). -/
def State.Accepts (s : State) (i : Instr) : Prop :=
  ∃ p rest, s.inputs = p :: rest ∧ p.reset = false ∧ s.phase = .idle ∧ p.cmdValid = true ∧ decode p.cmd = i

/-- The next step is one of the `reset` input, or accepts RST (R205). -/
def State.Resets (s : State) : Prop := (∃ p rest, s.inputs = p :: rest ∧ p.reset = true) ∨ s.Accepts .rst

/-- The host does not assert `reset` in what it will drive. -/
abbrev State.NoReset (s : State) : Prop := ∀ p ∈ s.inputs, p.reset = false

end Sys2Proof.Machine
end

