-- ==== Sys2Proof/Certificates/Slice0/Obligations.lean ====
section
/-! DEFINITION. The statements for the provers. Each `def Obligations.<Name> : Prop` formalises numbered rules of spec/
or follows from them; OBLIGATIONS.json lists them with the rules they cite. A statement about a next state gives the
state an instruction leaves by a record update of the old one, so what the update does not name is unchanged. -/

open Sys2Proof Sys2Proof.Machine

/-! ## The whole machine -/

/-- R44: what holds of every reachable state holds at reset. -/
def Obligations.InvariantHoldsAtReset : Prop := Inv State.reset

/-- R44: every step keeps the invariant, whatever the host drives. -/
def Obligations.EveryStepKeepsTheInvariant : Prop := ∀ s t : State, Inv s → step s = .next t → Inv t

/-- R27, R59, R131, R193: no division by zero, no table index out of range, no wrap of ACC and no state without a rule
in any state of the invariant. -/
def Obligations.InvariantStatesNeverStop : Prop := ∀ s : State, Inv s → ∃ t, step s = .next t

/-- R220: every RUN phase ends, if the host does not assert `reset`: a step of the core completes the command, or
increases CNT by one within the bound of the command. No step count is claimed (R219). -/
def Obligations.EveryRunPhaseEnds : Prop :=
  (∀ s : State, Inv s → s.NoReset → ∃ n t, Host.Core.run Sys2Proof.core n s = .next t ∧ t.phase = .idle) ∧
  (∀ s t : State, Inv s → s.NoReset → s.phase ≠ .idle → step s = .next t →
    t.phase = .idle ∨
      (t.phase = s.phase ∧ t.cnt.toNat = s.cnt.toNat + 1 ∧
        (s.phase = .cfgRun → t.cnt.toNat ≤ s.len.toNat ∧ s.len.toNat ≤ 256) ∧
        (s.phase ≠ .cfgRun → t.cnt.toNat ≤ s.w.toNat ∧ s.w.toNat ≤ 32)))

/-- R100: the alphabet lock. -/
def Obligations.AlphabetIsLockedUntilReset : Prop :=
  ∀ s : State, Inv s → s.cfgOk = true →
    (∀ i, (∃ idx sym, i = Instr.wrsym idx sym) ∨ (∃ n, i = Instr.cfg n) →
      ∃ t, exec i s = .next t ∧ t = { s with opk := t.opk, err := .locked, errInfo := t.errInfo }) ∧
    (∀ t, step s = .next t →
      (t.fwd = s.fwd ∧ t.rev = s.rev ∧ t.b = s.b ∧ t.w = s.w ∧ t.cfgOk = true) ∨ (s.Resets ∧ t.HasResetValues))

/-- R46: what sets and what clears each flag. -/
def Obligations.FlagsChangeOnlyAsTheSummarySays : Prop :=
  ∀ s t : State, step s = .next t →
    (s.cfgOk = false → t.cfgOk = true → s.phase = .cfgRun ∧ t.phase = .idle ∧ t.err = .ok) ∧
    (s.cfgOk = true → t.cfgOk = false → s.Resets) ∧
    (s.resV = false → t.resV = true → s.phase = .decRun ∧ t.phase = .idle ∧ t.err = .ok) ∧
    (s.obufV = false → t.obufV = true → s.phase = .encRun ∧ t.phase = .idle ∧ t.err = .ok) ∧
    (s.resV = true ∧ t.resV = false ∨ s.obufV = true ∧ t.obufV = false →
      s.Resets ∨ s.cfgOk = true ∧ ((∃ v, s.Accepts (.enc v)) ∨ ∃ n, s.Accepts (.dec n))) ∧
    (∀ sym, s.revAt sym = none → t.revAt sym ≠ none → s.phase = .cfgRun ∧ t.phase = .cfgRun ∧ s.fwdAt s.cnt.toNat = sym) ∧
    (∀ sym, s.revAt sym ≠ none → t.revAt sym = none →
      s.Resets ∨ (s.cfgOk = false ∧ ∃ n, s.Accepts (.cfg n)) ∨ (s.phase = .cfgRun ∧ t.phase = .idle ∧ t.err = .alphaDup))

/-- R30, R33: an FWD entry changes only by WRSYM while unconfigured, an IBUF entry only by WRIN; an entry nothing has
written reads the same at every read until it is written or the block resets. -/
def Obligations.TableEntriesChangeOnlyByTheirCommand : Prop :=
  ∀ s t : State, step s = .next t → ¬s.Resets →
    (∀ i, t.fwdAt i ≠ s.fwdAt i →
      s.cfgOk = false ∧ ∃ idx : Idx, idx.toNat = i ∧ i < 256 ∧ s.Accepts (.wrsym idx (t.fwdAt i))) ∧
    (∀ j, t.ibufAt j ≠ s.ibufAt j → ∃ idx : Idx, idx.toNat = j ∧ j < 32 ∧ s.Accepts (.wrin idx (t.ibufAt j)))

/-! ## Encoding -/

/-- Decoding a command's canonical beat gives the command, with every operand at every value. -/
def Obligations.DecodeInvertsEncode : Prop := ∀ i : Instr, decode (encode i) = i

/-- R80, in plain numbers: `op` is the beat divided by 2^144, `idx` its bits 143 to 128, `data` its low 128 bits. -/
def Obligations.DecodeFollowsTheOpcodeMap : Prop :=
  ∀ c : Beat,
    let op := c.toNat / 2 ^ 144
    let idx : Idx := BitVec.ofNat 16 (c.toNat / 2 ^ 128)
    let data : Value := BitVec.ofNat 128 c.toNat
    let sym : Sym := BitVec.ofNat 8 c.toNat
    op < 16 ∧
    (op = 0 → decode c = .nop) ∧ (op = 1 → decode c = .wrsym idx sym) ∧ (op = 2 → decode c = .cfg idx) ∧
    (op = 3 → decode c = .enc data) ∧ (op = 4 → decode c = .wrin idx sym) ∧ (op = 5 → decode c = .dec idx) ∧
    (op = 6 → decode c = .ill6) ∧ (op = 7 → decode c = .ill7) ∧ (op = 8 → decode c = .ill8) ∧
    (op = 9 → decode c = .ill9) ∧ (op = 10 → decode c = .illA) ∧ (op = 11 → decode c = .illB) ∧
    (op = 12 → decode c = .illC) ∧ (op = 13 → decode c = .illD) ∧ (op = 14 → decode c = .illE) ∧
    (op = 15 → decode c = .rst)

/-- R74: any bit pattern in the unused fields selects the same command, and the canonical encodings hold zero there: in
every field R71 gives a dash, and in `data` above the symbol of WRSYM and WRIN. -/
def Obligations.UnusedFieldsAreIgnored : Prop :=
  (∀ (op : BitVec 4) (idx idx' : Idx) (data data' : Value),
    (op = 0 ∨ 6 ≤ op.toNat → decode (packBeat op idx data) = decode (packBeat op idx' data')) ∧
    (op = 2 ∨ op = 5 → decode (packBeat op idx data) = decode (packBeat op idx data')) ∧
    (op = 3 → decode (packBeat op idx data) = decode (packBeat op idx' data)) ∧
    (op = 1 ∨ op = 4 → data.toNat % 2 ^ 8 = data'.toNat % 2 ^ 8 →
      decode (packBeat op idx data) = decode (packBeat op idx data'))) ∧
  (∀ i ∈ [Instr.nop, .ill6, .ill7, .ill8, .ill9, .illA, .illB, .illC, .illD, .illE, .rst],
    idxField (encode i) = 0 ∧ dataField (encode i) = 0) ∧
  (∀ n : Idx, dataField (encode (.cfg n)) = 0 ∧ dataField (encode (.dec n)) = 0) ∧
  (∀ v : Value, idxField (encode (.enc v)) = 0) ∧
  (∀ (idx : Idx) (sym : Sym), (dataField (encode (.wrsym idx sym))).toNat < 2 ^ 8 ∧
    (dataField (encode (.wrin idx sym))).toNat < 2 ^ 8)

/-- R72: every beat is of exactly one row of the opcode table, the row of the command it decodes to. -/
def Obligations.EveryBeatIsOfExactlyOneTableRow : Prop :=
  ∀ c : Beat, (opcodeTable.filter fun r => r.covers c).map OpcodeRow.mnemonic = [(decode c).mnemonic]

/-- Words written out in `30_encoding.md` R78 and `95_test_vectors.md` 2.4 decode to the commands they stand for. -/
def Obligations.SpecWordsDecode : Prop :=
  decode 0x1000000000000000000000000000000000032 = .wrsym 0 0x32 ∧
  decode 0x100ffffffffffffffffffffffffffffffff41 = .wrsym 255 0x41 ∧
  decode 0x2003900000000000000000000000000000000 = .cfg 57 ∧
  decode 0x300002a162ee502f447019e8772762cbce5e2 = .enc 0x2a162ee502f447019e8772762cbce5e2 ∧
  decode 0x400150000000000000000000000000000006b = .wrin 21 0x6b ∧
  decode 0x5001600000000000000000000000000000000 = .dec 22 ∧
  decode 0xE123400000000000000000000000000000000 = .illE ∧
  decode 0xF000000000000000000000000000000000000 = .rst ∧
  decode 0x0ffffffffffffffffffffffffffffffffffff = .nop

/-- R70: a beat written as hexadecimal, 37 digits with spaces between the fields, reads back as the beat. -/
def Obligations.WrittenBeatReadsBack : Prop := ∀ c : Beat, parseBeat (beatText c) = some c ∧ (beatText c).length = 39

/-! ## The command port -/

/-- R81: a ready block accepts the beat on offer, and the step is the accept step of the decoded command; a command
placed for the next step is run by it. -/
def Obligations.StepRunsTheDecodedCommand : Prop :=
  (∀ (s : State) (p : PortIn) (rest : List PortIn),
    s.phase = .idle → s.inputs = p :: rest → p.reset = false → p.cmdValid = true →
      step s = exec (decode p.cmd) { s with inputs := rest }) ∧
  (∀ (s : State) (nbits w : Nat), s.phase = .idle → 148 ≤ nbits → w < 2 ^ 148 →
    step (s.withFetchWord nbits w) = exec (decode (BitVec.ofNat 148 w)) s ∧
    decodeTableWord nbits w = some (decode (BitVec.ofNat 148 w)))

/-- R81, R215: a beat offered to a busy block has no effect on the block: the step is the step with no beat on offer; a
host that holds its beat offers it again. -/
def Obligations.BusyBlockAcceptsNoBeat : Prop :=
  ∀ (s : State) (p : PortIn) (rest : List PortIn),
    s.phase ≠ .idle → s.inputs = p :: rest → p.reset = false →
      (∀ t, step { s with inputs := [] } = .next t →
        step s = .next { t with inputs := if p.cmdValid = true ∧ p.held = true then p :: rest else rest }) ∧
      (∀ f, step { s with inputs := [] } = .fault f → step s = .fault f)

/-- R199: a ready block that is offered no beat is idle and keeps all its state. -/
def Obligations.ReadyBlockWithoutABeatKeepsItsState : Prop :=
  ∀ s : State, s.phase = .idle →
    (s.inputs = [] → step s = .next s) ∧
    (∀ p rest, s.inputs = p :: rest → p.reset = false → p.cmdValid = false → step s = .next { s with inputs := rest })

/-- R207, R188: the `reset` input beats a beat on offer, a running command and a completion. That the beat of a host that
holds it (R215) is not offered again after the step of a reset (`t.inputs = rest`) is the model's choice, log entry 11
(DESIGN CHOICE): R207 says only that it is not accepted. -/
def Obligations.ResetInputBeatsEverything : Prop :=
  ∀ (s : State) (p : PortIn) (rest : List PortIn), s.inputs = p :: rest → p.reset = true →
    ∃ t, step s = .next t ∧ t.HasResetValues ∧ t.inputs = rest ∧ t.cmdReady = true ∧ t.done = false ∧
      t.decodedValue = none ∧ t.encodedString = none

/-- R43: the state after reset. -/
def Obligations.ResetStateValues : Prop :=
  State.reset.HasResetValues ∧ State.reset.cmdReady = true ∧ State.reset.done = false ∧ State.reset.decodedValue = none ∧
    State.reset.encodedString = none

/-- R40, R35: on a ready or a busy block, after any command other than RST has completed, the block is ready and
`done = 1`, and OPK is the command's kind. R81: a busy block holds the host until the running command has completed, and
then accepts the beat: what `issue` does is what it does on the block that the running command leaves. -/
def Obligations.CompletionShowsDone : Prop :=
  (∀ (s : State) (i : Instr), Inv s →
    ∃ t, issue (encode i) s = .next t ∧ t.cmdReady = true ∧ (t.done = true ↔ i ≠ .rst) ∧ t.opk = opKindOf i) ∧
  (∀ (s : State) (c : Beat), Inv s →
    ∃ r, waitReady 300 { s with inputs := [] } = .next r ∧ r.phase = .idle ∧ issue c s = issue c r)

/-! ## Accept steps -/

/-- Every command's accept step answers a next state, in every state. -/
def Obligations.EveryCommandIsAnswered : Prop := ∀ (i : Instr) (s : State), ∃ t, exec i s = .next t

/-- R145: NOP. -/
def Obligations.NopWritesStatusOnly : Prop :=
  (∀ s : State, exec .nop s = .next { s with opk := .nop, err := .ok, errInfo := 0 }) ∧
  (∀ (idx : Idx) (data : Value), decode (packBeat 0 idx data) = .nop)

/-- R147, R75: the nine reserved opcodes. -/
def Obligations.ReservedOpcodesReportIllegalCommand : Prop :=
  (∀ s : State, ∀ p ∈ [(Instr.ill6, 6), (Instr.ill7, 7), (Instr.ill8, 8), (Instr.ill9, 9), (Instr.illA, 10),
      (Instr.illB, 11), (Instr.illC, 12), (Instr.illD, 13), (Instr.illE, 14)],
    exec p.1 s = .next { s with opk := .ill, err := .illCmd, errInfo := BitVec.ofNat 16 p.2 }) ∧
  (∀ (s : State) (op : BitVec 4) (idx : Idx) (data : Value), 6 ≤ op.toNat → op.toNat ≤ 14 →
    exec (decode (packBeat op idx data)) s =
      .next { s with opk := .ill, err := .illCmd, errInfo := BitVec.ofNat 16 op.toNat })

/-- R146, R205: RST gives the reset state, the same that the `reset` input gives; a following ENC finds no alphabet. A busy
block does not accept it: the host that holds it on offer holds it on. -/
def Obligations.RstGivesTheResetState : Prop :=
  (∀ s : State, ∃ t, exec .rst s = .next t ∧ t.HasResetValues ∧ t.inputs = s.inputs ∧ t.cmdReady = true ∧
    t.done = false ∧ step { s with inputs := PortIn.resetPulse :: s.inputs } = .next t ∧
    ∀ v, ∃ u, exec (.enc v) t = .next u ∧ u.err = .noCfg) ∧
  (∀ (idx : Idx) (data : Value), decode (packBeat 0xF idx data) = .rst) ∧
  (∀ s t : State, s.phase ≠ .idle → step { s with inputs := [] } = .next t →
    step { s with inputs := [PortIn.offer (encode .rst)] } = .next { t with inputs := [PortIn.offer (encode .rst)] })

/-- R91: WRSYM. -/
def Obligations.WrsymWritesOneForwardEntry : Prop :=
  ∀ (idx : Idx) (sym : Sym) (s : State),
    (s.cfgOk = true →
      exec (.wrsym idx sym) s = .next { s with opk := .wrsym, err := .locked, errInfo := idx }) ∧
    (s.cfgOk = false → 256 ≤ idx.toNat →
      exec (.wrsym idx sym) s = .next { s with opk := .wrsym, err := .badIdx, errInfo := idx }) ∧
    (s.cfgOk = false → idx.toNat < 256 →
      ∃ t, exec (.wrsym idx sym) s = .next t ∧
        t = { s with fwd := t.fwd, opk := .wrsym, err := .ok, errInfo := 0 } ∧
        ∀ i, t.fwdAt i = if i = idx.toNat then sym else s.fwdAt i) ∧
    (∀ data : Value, data.toNat % 2 ^ 8 = sym.toNat → decode (packBeat 1 idx data) = .wrsym idx sym)

/-- R92: CFG, the accept step. -/
def Obligations.CfgStartsTheScan : Prop :=
  ∀ (n : Idx) (s : State),
    (s.cfgOk = true → exec (.cfg n) s = .next { s with opk := .cfg, err := .locked, errInfo := 0 }) ∧
    (s.cfgOk = false →
      ∃ t, exec (.cfg n) s = .next t ∧
        t = { s with rev := t.rev, opk := .cfg, len := n, cnt := 0, err := .ok, errInfo := 0, phase := .cfgRun } ∧
        ∀ sym, t.revAt sym = none) ∧
    (∀ data : Value, decode (packBeat 2 n data) = .cfg n)

/-- R110: ENC, the accept step. -/
def Obligations.EncLoadsTheValue : Prop :=
  ∀ (v : Value) (s : State),
    (s.cfgOk = false → exec (.enc v) s = .next { s with opk := .enc, err := .noCfg, errInfo := 0 }) ∧
    (s.cfgOk = true →
      ∃ t, exec (.enc v) s = .next t ∧ t.acc.toNat = v.toNat ∧
        t = { s with opk := .enc, acc := t.acc, cnt := 0, resV := false, obufV := false, err := .ok, errInfo := 0,
                     phase := .encRun }) ∧
    (∀ idx : Idx, decode (packBeat 3 idx v) = .enc v)

/-- R125: WRIN. -/
def Obligations.WrinWritesOneInputEntry : Prop :=
  ∀ (idx : Idx) (sym : Sym) (s : State),
    (32 ≤ idx.toNat → exec (.wrin idx sym) s = .next { s with opk := .wrin, err := .badIdx, errInfo := idx }) ∧
    (idx.toNat < 32 →
      ∃ t, exec (.wrin idx sym) s = .next t ∧
        t = { s with ibuf := t.ibuf, opk := .wrin, err := .ok, errInfo := 0 } ∧
        ∀ j, t.ibufAt j = if j = idx.toNat then sym else s.ibufAt j) ∧
    (∀ data : Value, data.toNat % 2 ^ 8 = sym.toNat → decode (packBeat 4 idx data) = .wrin idx sym)

/-- R126: DEC, the accept step. -/
def Obligations.DecStartsTheAccumulator : Prop :=
  ∀ (len : Idx) (s : State),
    (s.cfgOk = false → exec (.dec len) s = .next { s with opk := .dec, err := .noCfg, errInfo := 0 }) ∧
    (s.cfgOk = true →
      exec (.dec len) s =
        .next { s with opk := .dec, len := len, acc := 0, cnt := 0, resV := false, obufV := false, err := .ok,
                       errInfo := 0, phase := .decRun }) ∧
    (∀ data : Value, decode (packBeat 5 len data) = .dec len)

/-- R185: an accept-time fault writes OPK, ERR and ERRINFO and nothing else, and only an accept step finds one. -/
def Obligations.AcceptTimeFaultsWriteStatusOnly : Prop :=
  (∀ (i : Instr) (s t : State), exec i s = .next t → t.err ∈ [.noCfg, .locked, .badIdx, .illCmd] →
    t = { s with opk := t.opk, err := t.err, errInfo := t.errInfo }) ∧
  (∀ s t : State, Inv s → s.phase ≠ .idle → step s = .next t → t.err ∉ [.noCfg, .locked, .badIdx, .illCmd])

/-- R71: a command with a legal operand and a legal opcode reports neither `E_BADIDX` nor `E_ILLCMD`, and every other
command reports one of them or `E_LOCKED`. -/
def Obligations.OnlyIllFormedCommandsReportBadIndexOrOpcode : Prop :=
  ∀ (i : Instr) (s t : State), exec i s = .next t →
    (i.wellFormed = true → t.err ≠ .badIdx ∧ t.err ≠ .illCmd) ∧
    (i.wellFormed = false → t.err ∈ [.badIdx, .illCmd, .locked])

/-- R118, R135: NOP, WRSYM, WRIN, CFG and the reserved opcodes do not disturb a result that can be read. -/
def Obligations.ResultsSurviveOtherCommands : Prop :=
  ∀ (i : Instr) (s t : State), Inv s → s.phase = .idle → i ≠ .rst → (∀ v, i ≠ .enc v) → (∀ n, i ≠ .dec n) →
    exec i s = .next t →
      t.resV = s.resV ∧ t.obufV = s.obufV ∧ t.decodedValue = s.decodedValue ∧ t.encodedString = s.encodedString

/-! ## Run steps -/

/-- R93, R94: CFG of too few and of too many symbols. -/
def Obligations.CfgChecksTheCount : Prop :=
  ∀ s : State, s.phase = .cfgRun → s.inputs = [] → s.cnt = 0 →
    (s.len.toNat < 16 → step s = .next { s with err := .alphaFew, errInfo := s.len, phase := .idle }) ∧
    (256 < s.len.toNat → step s = .next { s with err := .alphaMany, errInfo := s.len, phase := .idle })

/-- R95: one scan step. -/
def Obligations.CfgScansOneSymbol : Prop :=
  ∀ s : State, s.phase = .cfgRun → s.inputs = [] → 16 ≤ s.len.toNat → s.len.toNat ≤ 256 →
    s.cnt.toNat < s.len.toNat →
      (s.revAt (s.fwdAt s.cnt.toNat) ≠ none →
        ∃ t, step s = .next t ∧ (∀ sym, t.revAt sym = none) ∧ t.errInfo.toNat = s.cnt.toNat ∧
          t = { s with rev := t.rev, err := .alphaDup, errInfo := t.errInfo, phase := .idle }) ∧
      (s.revAt (s.fwdAt s.cnt.toNat) = none →
        ∃ t, step s = .next t ∧ t.cnt.toNat = s.cnt.toNat + 1 ∧ t = { s with rev := t.rev, cnt := t.cnt } ∧
          ∀ sym, (t.revAt sym).map BitVec.toNat =
            if sym = s.fwdAt s.cnt.toNat then some s.cnt.toNat else (s.revAt sym).map BitVec.toNat)

/-- R96: the finish step of CFG builds and locks the alphabet. -/
def Obligations.CfgFinishLocksTheAlphabet : Prop :=
  ∀ s : State, s.phase = .cfgRun → s.inputs = [] → 16 ≤ s.len.toNat → s.len.toNat ≤ 256 →
    s.cnt.toNat = s.len.toNat →
      ∃ t, step s = .next t ∧ t.b.toNat = s.len.toNat ∧ t.w.toNat = width s.len.toNat ∧
        t = { s with b := t.b, w := t.w, cfgOk := true, err := .ok, errInfo := 0, phase := .idle }

/-- R111: one division step. -/
def Obligations.EncDividesByTheRadix : Prop :=
  ∀ s : State, Inv s → s.phase = .encRun → s.inputs = [] → s.cnt.toNat < s.w.toNat →
    ∃ t, step s = .next t ∧ t.acc.toNat = s.acc.toNat / s.b.toNat ∧ t.cnt.toNat = s.cnt.toNat + 1 ∧
      (∀ j, t.obufAt j =
        if j = s.w.toNat - 1 - s.cnt.toNat then s.fwdAt (s.acc.toNat % s.b.toNat) else s.obufAt j) ∧
      t = { s with acc := t.acc, cnt := t.cnt, obuf := t.obuf }

/-- R112: the finish step of ENC. -/
def Obligations.EncFinishChecksTheQuotient : Prop :=
  ∀ s : State, s.phase = .encRun → s.inputs = [] → s.cnt.toNat = s.w.toNat →
    (s.acc ≠ 0 → step s = .next { s with err := .encLen, errInfo := 0, phase := .idle }) ∧
    (s.acc = 0 → step s = .next { s with obufV := true, err := .ok, errInfo := 0, phase := .idle })

/-- R127: the length check of DEC. -/
def Obligations.DecChecksTheLengthFirst : Prop :=
  ∀ s : State, s.phase = .decRun → s.inputs = [] → s.cnt = 0 → s.len.toNat ≠ s.w.toNat →
    step s = .next { s with err := .decLen, errInfo := s.len, phase := .idle }

/-- R128: one Horner step. -/
def Obligations.DecMultipliesAndAdds : Prop :=
  ∀ s : State, Inv s → s.phase = .decRun → s.inputs = [] → s.len.toNat = s.w.toNat → s.cnt.toNat < s.w.toNat →
    (s.revAt (s.ibufAt s.cnt.toNat) = none →
      ∃ t, step s = .next t ∧ t.errInfo.toNat = s.cnt.toNat ∧
        t = { s with err := .decChar, errInfo := t.errInfo, phase := .idle }) ∧
    (∀ d, s.revAt (s.ibufAt s.cnt.toNat) = some d →
      ∃ t, step s = .next t ∧ t.acc.toNat = s.acc.toNat * s.b.toNat + d.toNat ∧ t.cnt.toNat = s.cnt.toNat + 1 ∧
        t = { s with acc := t.acc, cnt := t.cnt })

/-- R129: the range check of DEC. -/
def Obligations.DecFinishChecksTheRange : Prop :=
  ∀ s : State, s.phase = .decRun → s.inputs = [] → s.len.toNat = s.w.toNat → s.cnt.toNat = s.w.toNat →
    (2 ^ 128 ≤ s.acc.toNat → step s = .next { s with err := .decRange, errInfo := 0, phase := .idle }) ∧
    (s.acc.toNat < 2 ^ 128 → step s = .next { s with resV := true, err := .ok, errInfo := 0, phase := .idle })

/-! ## Commands from accept to completion -/

/-- R221, R97: CFG's steps end in the state of its one-function reading. -/
def Obligations.CfgRunsToItsOneFunctionReading : Prop :=
  ∀ (n : Idx) (s : State), Inv s → s.ReadyQuiet → issue (encode (.cfg n)) s = .next (bigCfg n s)

/-- R221, R113: ENC's steps end in the state of its one-function reading. -/
def Obligations.EncRunsToItsOneFunctionReading : Prop :=
  ∀ (v : Value) (s : State), Inv s → s.ReadyQuiet → issue (encode (.enc v)) s = .next (bigEnc v s)

/-- R221, R130: DEC's steps end in the state of its one-function reading. -/
def Obligations.DecRunsToItsOneFunctionReading : Prop :=
  ∀ (len : Idx) (s : State), Inv s → s.ReadyQuiet → issue (encode (.dec len)) s = .next (bigDec len s)

/-- R97: the outcome of CFG on an unconfigured and on a configured block. -/
def Obligations.CfgReportsTheFirstCause : Prop :=
  ∀ (n : Idx) (s : State), Inv s → s.ReadyQuiet →
    ∃ t, issue (encode (.cfg n)) s = .next t ∧ t.opk = .cfg ∧ t.phase = .idle ∧ t.fwd = s.fwd ∧ t.ibuf = s.ibuf ∧
      t.obuf = s.obuf ∧ t.acc = s.acc ∧ t.resV = s.resV ∧ t.obufV = s.obufV ∧
      (s.cfgOk = true → t = { s with opk := .cfg, err := .locked, errInfo := 0 }) ∧
      (s.cfgOk = false → t.len = n) ∧
      (s.cfgOk = false → n.toNat < 16 → t.err = .alphaFew ∧ t.errInfo = n ∧ t.cnt = 0) ∧
      (s.cfgOk = false → 256 < n.toNat → t.err = .alphaMany ∧ t.errInfo = n ∧ t.cnt = 0) ∧
      (s.cfgOk = false → 16 ≤ n.toNat → n.toNat ≤ 256 →
        (∃ i j, j < i ∧ i < n.toNat ∧ s.fwdAt i = s.fwdAt j) →
          t.err = .alphaDup ∧ t.cnt.toNat = t.errInfo.toNat ∧ t.errInfo.toNat < n.toNat ∧
          (∃ j, j < t.errInfo.toNat ∧ s.fwdAt t.errInfo.toNat = s.fwdAt j) ∧
          ∀ i j, j < i → i < t.errInfo.toNat → s.fwdAt i ≠ s.fwdAt j) ∧
      (s.cfgOk = false → 16 ≤ n.toNat → n.toNat ≤ 256 →
        (∀ i j, j < i → i < n.toNat → s.fwdAt i ≠ s.fwdAt j) →
          t.err = .ok ∧ t.errInfo = 0 ∧ t.cfgOk = true ∧ t.b.toNat = n.toNat ∧ t.w.toNat = width n.toNat ∧
          t.cnt.toNat = n.toNat ∧ t.InverseUpTo n.toNat) ∧
      (s.cfgOk = false → t.err ≠ .ok → t.cfgOk = false ∧ t.b = 0 ∧ t.w = 0 ∧ ∀ sym, t.revAt sym = none)

/-- R113: the outcome of ENC. -/
def Obligations.EncWritesTheNumeral : Prop :=
  ∀ (v : Value) (s : State), Inv s → s.ReadyQuiet →
    ∃ t, issue (encode (.enc v)) s = .next t ∧
      (s.cfgOk = false → t = { s with opk := .enc, err := .noCfg, errInfo := 0 }) ∧
      (s.cfgOk = true →
        t = { s with opk := .enc, err := .ok, errInfo := 0, resV := false, obufV := true, obuf := t.obuf, acc := 0,
                     cnt := t.cnt } ∧
        t.cnt.toNat = s.w.toNat ∧
        t.encodedString = some ((List.range s.w.toNat).map fun j =>
          s.fwdAt (v.toNat / s.b.toNat ^ (s.w.toNat - 1 - j) % s.b.toNat)))

/-- R120: the corner cases of ENC. -/
def Obligations.EncCornerCases : Prop :=
  ∀ s : State, Inv s → s.ReadyQuiet → s.cfgOk = true → ∀ v : Value,
    ∃ t str, issue (encode (.enc v)) s = .next t ∧ t.encodedString = some str ∧
      (v.toNat = 0 → str = List.replicate s.w.toNat (s.fwdAt 0)) ∧
      (v.toNat = s.b.toNat - 1 → str = List.replicate (s.w.toNat - 1) (s.fwdAt 0) ++ [s.fwdAt (s.b.toNat - 1)]) ∧
      (v.toNat = s.b.toNat → str = List.replicate (s.w.toNat - 2) (s.fwdAt 0) ++ [s.fwdAt 1, s.fwdAt 0]) ∧
      (v.toNat = 2 ^ 128 - 1 → (2 ^ 128 - 1) / s.b.toNat ^ (s.w.toNat - 1) < s.b.toNat ∧
        str.head? = some (s.fwdAt ((2 ^ 128 - 1) / s.b.toNat ^ (s.w.toNat - 1))) ∧
        (s.b.toNat = 57 → str.head? = some (s.fwdAt 45))) ∧
      (s.b.toNat = 16 → str = (List.range 32).map fun j => s.fwdAt (v.extractLsb' (124 - 4 * j) 4).toNat) ∧
      (s.b.toNat = 256 → str = (List.range 16).map fun j => s.fwdAt (v.extractLsb' (120 - 8 * j) 8).toNat)

/-- R119: encodings have the fixed width, are injective, and keep the order when the codes rise with the index. -/
def Obligations.EncodingIsFixedWidthAndInjective : Prop :=
  ∀ (u v : Value) (s : State), Inv s → s.ReadyQuiet → s.cfgOk = true →
    ∃ tu tv su sv, issue (encode (.enc u)) s = .next tu ∧ tu.encodedString = some su ∧
      issue (encode (.enc v)) s = .next tv ∧ tv.encodedString = some sv ∧
      su.length = s.w.toNat ∧ (u.toNat = 0 → su = List.replicate s.w.toNat (s.fwdAt 0)) ∧ (u ≠ v → su ≠ sv) ∧
      ((∀ i j, i < j → j < s.b.toNat → (s.fwdAt i).toNat < (s.fwdAt j).toNat) → u.toNat < v.toNat →
        su.map BitVec.toNat < sv.map BitVec.toNat)

/-- R136: decoding what ENC wrote gives the value back, and a string that decodes to a value is what that value
encodes to: first after one another on the block, then on one state. -/
def Obligations.EncodeAndDecodeAreInverse : Prop :=
  ∀ s : State, Inv s → s.ReadyQuiet → s.cfgOk = true →
    (∀ v : Value, ∃ str t u, encodeInt v.toNat s = some (.ok str, t) ∧ str.length = s.w.toNat ∧
      decodeString str t = some (.ok v, u)) ∧
    (∀ (v : Value) (str : List Sym) (t : State), decodeString str s = some (.ok v, t) →
      ∃ u, encodeInt v.toNat t = some (.ok str, u)) ∧
    (∀ (v : Value) (str : List Sym),
      (∃ t, decodeString str s = some (.ok v, t)) ↔ ∃ t, encodeInt v.toNat s = some (.ok str, t))

/-- R130, R134: what `decode_string` answers, the first error in the order length, character, range. -/
def Obligations.DecodeStringReportsTheFirstError : Prop :=
  ∀ (syms : List Sym) (s : State), Inv s → s.ReadyQuiet → s.cfgOk = true →
    ∃ ans t, decodeString syms s = some (ans, t) ∧
      (syms.length ≠ s.w.toNat → ans = .error .decLen ∧ t.errInfo = saturate syms.length) ∧
      (syms.length = s.w.toNat → (∃ c ∈ syms, s.revAt c = none) →
        ans = .error .decChar ∧ (∃ c, syms[t.errInfo.toNat]? = some c ∧ s.revAt c = none) ∧
          ∀ j c, j < t.errInfo.toNat → syms[j]? = some c → s.revAt c ≠ none) ∧
      (∀ ds, syms.length = s.w.toNat → syms.mapM s.revAt = some ds →
        (2 ^ 128 ≤ placeValue s.b.toNat (ds.map BitVec.toNat) → ans = .error .decRange ∧ t.errInfo = 0) ∧
        (placeValue s.b.toNat (ds.map BitVec.toNat) < 2 ^ 128 →
          ans = .ok (BitVec.ofNat 128 (placeValue s.b.toNat (ds.map BitVec.toNat)))))

/-- R137, R138: radix 16 and radix 256 decode every string of W alphabet symbols; every other radix rejects the string of
W times the last symbol for its range. -/
def Obligations.OnlyTwoRadicesAcceptEveryString : Prop :=
  ∀ s : State, Inv s → s.ReadyQuiet → s.cfgOk = true →
    (s.b.toNat = 16 ∨ s.b.toNat = 256 → ∀ syms : List Sym, syms.length = s.w.toNat → (∀ c ∈ syms, s.revAt c ≠ none) →
      ∃ v t, decodeString syms s = some (.ok v, t)) ∧
    (s.b.toNat ≠ 16 → s.b.toNat ≠ 256 →
      ∃ t, decodeString (List.replicate s.w.toNat (s.fwdAt (s.b.toNat - 1))) s = some (.error .decRange, t))

/-- R191: what a command that completes with an error leaves. -/
def Obligations.ErrorsLeaveTheAlphabet : Prop :=
  ∀ (i : Instr) (s t : State), Inv s → s.ReadyQuiet → issue (encode i) s = .next t → t.err ≠ .ok →
    t.opk = opKindOf i ∧ t.fwd = s.fwd ∧ t.b = s.b ∧ t.w = s.w ∧ t.cfgOk = s.cfgOk ∧ t.rev = s.rev ∧ t.ibuf = s.ibuf ∧
      (s.cfgOk = true → (∃ v, i = .enc v) ∨ (∃ n, i = .dec n) → t.resV = false ∧ t.obufV = false)

/-- R98, R99: the width function. -/
def Obligations.WidthIsTheLeastExponent : Prop :=
  ∀ b : Nat, 16 ≤ b → b ≤ 256 →
    2 ^ 128 ≤ b ^ width b ∧ (∀ v, v < width b → b ^ v < 2 ^ 128) ∧ b ^ (width b - 1) < 2 ^ 128 ∧ b ^ width b < 2 ^ 136 ∧
      16 ≤ width b ∧ width b ≤ 32 ∧
      (∃ r ∈ widthTable, r.1 ≤ b ∧ b ≤ r.2.1) ∧ ∀ r ∈ widthTable, r.1 ≤ b → b ≤ r.2.1 → width b = r.2.2

/-! ## The host -/

/-- R169: what `build_alphabet` answers. -/
def Obligations.BuildAlphabetOutcome : Prop :=
  ∀ (syms : List Sym) (s : State), Inv s → s.ReadyQuiet →
    ∃ ans t, buildAlphabet syms s = some (ans, t) ∧
      (s.cfgOk = true → ans = .error .locked) ∧
      (s.cfgOk = false → syms.length < 16 → ans = .error .alphaFew) ∧
      (s.cfgOk = false → 256 < syms.length → ans = .error .alphaMany) ∧
      (s.cfgOk = false → 16 ≤ syms.length → syms.length ≤ 256 → ¬syms.Nodup → ans = .error .alphaDup) ∧
      (s.cfgOk = false → 16 ≤ syms.length → syms.length ≤ 256 → syms.Nodup →
        ans = .ok (syms.length, width syms.length) ∧ t.cfgOk = true ∧
          ∀ i c, syms[i]? = some c → t.fwdAt i = c ∧ t.revAt c = some (BitVec.ofNat 8 i))

/-- R156 to R158: exactly the four shapes are accepted, each with its 32 digits; no other string is, and no input that is
no string. -/
def Obligations.NormalizeAcceptsExactlyFourShapes : Prop :=
  ∀ (input : UuidInput) (h : List Char), normalizeUuidInput input = some h ↔
    h.length = 32 ∧ (∀ c ∈ h, hexDigitValue c ≠ none) ∧
      (input = .text h ∨ input = .text (hyphenate h) ∨ input = .text (leftBrace :: (h ++ [rightBrace])) ∨
        input = .text (leftBrace :: (hyphenate h ++ [rightBrace])))

/-- R159, R164: the canonical form of a value, and that it reads back; the canonical form of accepted digits is those
digits in lower case. -/
def Obligations.CanonicalFormReadsBack : Prop :=
  (∀ v : Value, (formatUuid v).length = 36 ∧ normalizeUuid (formatUuid v) = some (hexDigits v) ∧
    hexValue (hexDigits v) = v.toNat ∧
    (∀ k, k < 32 → (hexDigits v)[k]? = some (hexDigit (v.extractLsb' (124 - 4 * k) 4).toNat)) ∧
    ∀ k, k ∈ [8, 13, 18, 23] → (formatUuid v)[k]? = some '-') ∧
  (∀ text h, normalizeUuid text = some h →
    formatUuid (BitVec.ofNat 128 (hexValue h)) = hyphenate (h.map Char.toLower))

/-- R167: round trip, fixed width and idempotent normalization of the codec. -/
def Obligations.UuidRoundTrip : Prop :=
  ∀ (m : CodeMap) (text h : List Char) (s : State), Inv s → s.ReadyQuiet → s.cfgOk = true → codeMapInjective m →
    (∀ d, d < s.b.toNat → ∃ g, (g, s.fwdAt d) ∈ m) → normalizeUuid text = some h →
      ∃ gs t u, encodeUuid m (.text text) s = (.ok gs, t) ∧ gs.length = s.w.toNat ∧
        decodeUuid m gs t = (.ok (hyphenate (h.map Char.toLower)), u) ∧
        ∀ text' h', normalizeUuid text' = some h' → h'.map Char.toLower = h.map Char.toLower →
          (encodeUuid m (.text text') s).1 = .ok gs

/-- R161, R163: on a built codec every failure of encode is `InvalidUUID` and every failure of decode is `InvalidInput`:
a wrong length, a grapheme with no code, a code with no index, a value of 2^128 or more, the first of them that holds.
Every other input is answered. The causes carried with `InvalidInput` are for its message alone (log entry 16). -/
def Obligations.CallerErrorsCollapse : Prop :=
  ∀ (m : CodeMap) (s : State), Inv s → s.ReadyQuiet → s.cfgOk = true → codeMapInjective m →
    (∀ d, d < s.b.toNat → ∃ g, (g, s.fwdAt d) ∈ m) →
      (∀ input, (normalizeUuidInput input = none → (encodeUuid m input s).1 = .error .invalidUuid) ∧
        (normalizeUuidInput input ≠ none → ∃ gs, (encodeUuid m input s).1 = .ok gs)) ∧
      (∀ input, input.length ≠ s.w.toNat → (decodeUuid m input s).1 = .error (.invalidInput .decLen)) ∧
      (∀ input, input.length = s.w.toNat → (∃ g ∈ input, codeOf? m g = none) →
        (decodeUuid m input s).1 = .error (.invalidInput .decChar)) ∧
      (∀ input codes, input.length = s.w.toNat → input.mapM (codeOf? m) = some codes →
        ((∃ c ∈ codes, s.revAt c = none) → (decodeUuid m input s).1 = .error (.invalidInput .decChar)) ∧
        (∀ ds, codes.mapM s.revAt = some ds →
          (2 ^ 128 ≤ placeValue s.b.toNat (ds.map BitVec.toNat) →
            (decodeUuid m input s).1 = .error (.invalidInput .decRange)) ∧
          (placeValue s.b.toNat (ds.map BitVec.toNat) < 2 ^ 128 →
            (decodeUuid m input s).1 =
              .ok (formatUuid (BitVec.ofNat 128 (placeValue s.b.toNat (ds.map BitVec.toNat)))))))

/-- R169: what building a codec from graphemes answers: the count is reported also where the code mapping cannot have a
code for every symbol, as no injective mapping has for more than 256. -/
def Obligations.BuildCodecOutcome : Prop :=
  ∀ (m : CodeMap) (symbols : List Grapheme) (s : State), Inv s → s.ReadyQuiet → s.cfgOk = false →
    (symbols.length < 16 → (buildCodec m symbols s).1 = .error (.invalidAlphabet .alphaFew)) ∧
    (256 < symbols.length → (buildCodec m symbols s).1 = .error (.invalidAlphabet .alphaMany)) ∧
    (∀ codes, 16 ≤ symbols.length → symbols.length ≤ 256 → symbols.mapM (codeOf? m) = some codes →
      (¬codes.Nodup → (buildCodec m symbols s).1 = .error (.invalidAlphabet .alphaDup)) ∧
      (codes.Nodup → ∃ t, buildCodec m symbols s = (.ok (symbols.length, width symbols.length), t) ∧ t.cfgOk = true ∧
        ∀ i c, codes[i]? = some c → t.fwdAt i = c ∧ t.revAt c = some (BitVec.ofNat 8 i)))

/-! ## The output ports -/

/-- R35: the port OPK shows the number of the kind of the last accepted command: 0 after reset, written in the accept step
of every command, and in no other step but a reset. -/
def Obligations.OpkPortNumbersTheLastCommand : Prop :=
  (∀ k, (State.reset.ports k).opk = 0) ∧
  (∀ (i : Instr) (s t : State) (k : Nat), exec i s = .next t →
    (i = .nop → (t.ports k).opk = 1) ∧ ((∃ idx sym, i = .wrsym idx sym) → (t.ports k).opk = 2) ∧
    ((∃ n, i = .cfg n) → (t.ports k).opk = 3) ∧ ((∃ v, i = .enc v) → (t.ports k).opk = 4) ∧
    ((∃ idx sym, i = .wrin idx sym) → (t.ports k).opk = 5) ∧ ((∃ n, i = .dec n) → (t.ports k).opk = 6) ∧
    (i ∈ [.ill6, .ill7, .ill8, .ill9, .illA, .illB, .illC, .illD, .illE] → (t.ports k).opk = 7) ∧
    (i = .rst → (t.ports k).opk = 0)) ∧
  (∀ (s t : State) (k : Nat), step s = .next t → ¬s.Resets → (∀ i, ¬s.Accepts i) → (t.ports k).opk = (s.ports k).opk)

/-- R181, R36, V9: the port ERR shows the number of the error code, and in a state of the invariant never a number that no
rule writes. R26: the numbers of PHASE. -/
def Obligations.ErrPortNumbersTheErrorCodes : Prop :=
  (∀ (s : State) (k : Nat),
    (s.err = .ok → (s.ports k).err = 0) ∧ (s.err = .alphaFew → (s.ports k).err = 1) ∧
    (s.err = .alphaMany → (s.ports k).err = 2) ∧ (s.err = .alphaDup → (s.ports k).err = 3) ∧
    (s.err = .encRange → (s.ports k).err = 4) ∧ (s.err = .encLen → (s.ports k).err = 5) ∧
    (s.err = .decLen → (s.ports k).err = 6) ∧ (s.err = .decChar → (s.ports k).err = 7) ∧
    (s.err = .decRange → (s.ports k).err = 8) ∧ (s.err = .noCfg → (s.ports k).err = 9) ∧
    (s.err = .locked → (s.ports k).err = 10) ∧ (s.err = .badIdx → (s.ports k).err = 11) ∧
    (s.err = .illCmd → (s.ports k).err = 12) ∧
    (Inv s → (s.ports k).err ≠ 4 ∧ (s.ports k).err.toNat ≤ 12)) ∧
  Phase.code .idle = 0 ∧ Phase.code .cfgRun = 1 ∧ Phase.code .encRun = 2 ∧ Phase.code .decRun = 3

/-- R38 to R41, R118, R135, R211: what the output ports show at any observation. While a result is not valid RES and OBUF
show any value, and so do the OBUF entries W..31 (free values, log entry 6), so nothing is said of them here. -/
def Obligations.PortsShowWhatCanBeRead : Prop :=
  ∀ (s : State) (k : Nat),
    ((s.ports k).cmdReady = true ↔ s.phase = .idle) ∧
    ((s.ports k).done = true ↔ s.phase = .idle ∧ s.opk ≠ .none) ∧
    (s.ports k).errInfo = s.errInfo ∧ (s.ports k).cfgOk = s.cfgOk ∧ (s.ports k).b = s.b ∧ (s.ports k).w = s.w ∧
    (s.ports k).resV = s.resV ∧ (s.ports k).obufV = s.obufV ∧ (s.ports k).obuf.length = 32 ∧
    (s.resV = true → s.phase = .idle →
      (s.ports k).res.toNat = s.acc.toNat % 2 ^ 128 ∧ s.decodedValue = some (s.ports k).res) ∧
    (Inv s → s.obufV = true → s.phase = .idle →
      s.encodedString = some ((s.ports k).obuf.take s.w.toNat) ∧
      ∀ j, j < s.w.toNat → (s.ports k).obuf[j]? = some (s.obufAt j) ∧ ∃ d, d < s.b.toNat ∧ s.obufAt j = s.fwdAt d)
end

