-- ==== Sys2Proof/Laws/Decode.lean ====
section
/-! SUPPORT. The fields of a packed beat, and decoding by the opcode. -/

namespace Sys2Proof

theorem opField_packBeat (op : BitVec 4) (idx : Idx) (data : Value) : opField (packBeat op idx data) = op := by
  ext i hi
  simp only [opField, packBeat, BitVec.getElem_extractLsb', BitVec.getLsbD_append]
  simp [show ¬(144 + i < 128) by omega, show ¬(144 + i - 128 < 16) by omega, show 144 + i - 128 - 16 = i by omega, hi]

theorem idxField_packBeat (op : BitVec 4) (idx : Idx) (data : Value) : idxField (packBeat op idx data) = idx := by
  ext i hi
  simp only [idxField, packBeat, BitVec.getElem_extractLsb', BitVec.getLsbD_append]
  simp [show ¬(128 + i < 128) by omega, hi]

theorem dataField_packBeat (op : BitVec 4) (idx : Idx) (data : Value) : dataField (packBeat op idx data) = data := by
  ext i hi
  simp only [dataField, packBeat, BitVec.getElem_extractLsb', BitVec.getLsbD_append]
  simp [hi]

theorem symField_packBeat (op : BitVec 4) (idx : Idx) (data : Value) :
    symField (packBeat op idx data) = data.setWidth 8 := by
  ext i hi
  simp only [symField, packBeat, BitVec.getElem_extractLsb', BitVec.getLsbD_append, BitVec.getElem_setWidth]
  simp [show i < 128 by omega]

@[simp] theorem setWidth_symData (sym : Sym) : (symData sym).setWidth 8 = sym := by
  ext i hi
  simp only [symData, BitVec.getElem_setWidth, BitVec.getLsbD_setWidth]
  simp [show i < 128 by omega, hi]

/-- A beat's command depends on its opcode field, and then on the fields that command uses. -/
theorem decode_packBeat (op : BitVec 4) (idx : Idx) (data : Value) :
    decode (packBeat op idx data) =
      match op.toFin with
      | ⟨0, _⟩ => .nop
      | ⟨1, _⟩ => .wrsym idx (data.setWidth 8)
      | ⟨2, _⟩ => .cfg idx
      | ⟨3, _⟩ => .enc data
      | ⟨4, _⟩ => .wrin idx (data.setWidth 8)
      | ⟨5, _⟩ => .dec idx
      | ⟨6, _⟩ => .ill6
      | ⟨7, _⟩ => .ill7
      | ⟨8, _⟩ => .ill8
      | ⟨9, _⟩ => .ill9
      | ⟨10, _⟩ => .illA
      | ⟨11, _⟩ => .illB
      | ⟨12, _⟩ => .illC
      | ⟨13, _⟩ => .illD
      | ⟨14, _⟩ => .illE
      | ⟨15, _⟩ => .rst
      | ⟨n + 16, h⟩ => absurd h (by omega) := by
  simp only [decode, opField_packBeat, idxField_packBeat, dataField_packBeat, symField_packBeat] <;> rfl

end Sys2Proof
end

