-- ==== Sys2Proof/Laws/State.lean ====
section
/-! SUPPORT. One lemma per field per named update of State, true by rfl, so that no later proof unfolds a record
update. -/

namespace Sys2Proof.Machine

variable (s : State)

@[simp] theorem State.setFwd_fwd (i : Nat) (c : Sym) : (s.setFwd i c).fwd = s.fwd.write i c := rfl
@[simp] theorem State.setFwd_rev (i : Nat) (c : Sym) : (s.setFwd i c).rev = s.rev := rfl
@[simp] theorem State.setFwd_b (i : Nat) (c : Sym) : (s.setFwd i c).b = s.b := rfl
@[simp] theorem State.setFwd_w (i : Nat) (c : Sym) : (s.setFwd i c).w = s.w := rfl
@[simp] theorem State.setFwd_cfgOk (i : Nat) (c : Sym) : (s.setFwd i c).cfgOk = s.cfgOk := rfl
@[simp] theorem State.setFwd_phase (i : Nat) (c : Sym) : (s.setFwd i c).phase = s.phase := rfl
@[simp] theorem State.setFwd_cnt (i : Nat) (c : Sym) : (s.setFwd i c).cnt = s.cnt := rfl
@[simp] theorem State.setFwd_len (i : Nat) (c : Sym) : (s.setFwd i c).len = s.len := rfl
@[simp] theorem State.setFwd_acc (i : Nat) (c : Sym) : (s.setFwd i c).acc = s.acc := rfl
@[simp] theorem State.setFwd_ibuf (i : Nat) (c : Sym) : (s.setFwd i c).ibuf = s.ibuf := rfl
@[simp] theorem State.setFwd_obuf (i : Nat) (c : Sym) : (s.setFwd i c).obuf = s.obuf := rfl
@[simp] theorem State.setFwd_opk (i : Nat) (c : Sym) : (s.setFwd i c).opk = s.opk := rfl
@[simp] theorem State.setFwd_err (i : Nat) (c : Sym) : (s.setFwd i c).err = s.err := rfl
@[simp] theorem State.setFwd_errInfo (i : Nat) (c : Sym) : (s.setFwd i c).errInfo = s.errInfo := rfl
@[simp] theorem State.setFwd_resV (i : Nat) (c : Sym) : (s.setFwd i c).resV = s.resV := rfl
@[simp] theorem State.setFwd_obufV (i : Nat) (c : Sym) : (s.setFwd i c).obufV = s.obufV := rfl
@[simp] theorem State.setFwd_inputs (i : Nat) (c : Sym) : (s.setFwd i c).inputs = s.inputs := rfl
@[simp] theorem State.setFwd_resets (i : Nat) (c : Sym) : (s.setFwd i c).resets = s.resets := rfl

@[simp] theorem State.setIbuf_fwd (i : Nat) (c : Sym) : (s.setIbuf i c).fwd = s.fwd := rfl
@[simp] theorem State.setIbuf_rev (i : Nat) (c : Sym) : (s.setIbuf i c).rev = s.rev := rfl
@[simp] theorem State.setIbuf_b (i : Nat) (c : Sym) : (s.setIbuf i c).b = s.b := rfl
@[simp] theorem State.setIbuf_w (i : Nat) (c : Sym) : (s.setIbuf i c).w = s.w := rfl
@[simp] theorem State.setIbuf_cfgOk (i : Nat) (c : Sym) : (s.setIbuf i c).cfgOk = s.cfgOk := rfl
@[simp] theorem State.setIbuf_phase (i : Nat) (c : Sym) : (s.setIbuf i c).phase = s.phase := rfl
@[simp] theorem State.setIbuf_cnt (i : Nat) (c : Sym) : (s.setIbuf i c).cnt = s.cnt := rfl
@[simp] theorem State.setIbuf_len (i : Nat) (c : Sym) : (s.setIbuf i c).len = s.len := rfl
@[simp] theorem State.setIbuf_acc (i : Nat) (c : Sym) : (s.setIbuf i c).acc = s.acc := rfl
@[simp] theorem State.setIbuf_ibuf (i : Nat) (c : Sym) : (s.setIbuf i c).ibuf = s.ibuf.write i c := rfl
@[simp] theorem State.setIbuf_obuf (i : Nat) (c : Sym) : (s.setIbuf i c).obuf = s.obuf := rfl
@[simp] theorem State.setIbuf_opk (i : Nat) (c : Sym) : (s.setIbuf i c).opk = s.opk := rfl
@[simp] theorem State.setIbuf_err (i : Nat) (c : Sym) : (s.setIbuf i c).err = s.err := rfl
@[simp] theorem State.setIbuf_errInfo (i : Nat) (c : Sym) : (s.setIbuf i c).errInfo = s.errInfo := rfl
@[simp] theorem State.setIbuf_resV (i : Nat) (c : Sym) : (s.setIbuf i c).resV = s.resV := rfl
@[simp] theorem State.setIbuf_obufV (i : Nat) (c : Sym) : (s.setIbuf i c).obufV = s.obufV := rfl
@[simp] theorem State.setIbuf_inputs (i : Nat) (c : Sym) : (s.setIbuf i c).inputs = s.inputs := rfl
@[simp] theorem State.setIbuf_resets (i : Nat) (c : Sym) : (s.setIbuf i c).resets = s.resets := rfl

@[simp] theorem State.setObuf_fwd (i : Nat) (c : Sym) : (s.setObuf i c).fwd = s.fwd := rfl
@[simp] theorem State.setObuf_rev (i : Nat) (c : Sym) : (s.setObuf i c).rev = s.rev := rfl
@[simp] theorem State.setObuf_b (i : Nat) (c : Sym) : (s.setObuf i c).b = s.b := rfl
@[simp] theorem State.setObuf_w (i : Nat) (c : Sym) : (s.setObuf i c).w = s.w := rfl
@[simp] theorem State.setObuf_cfgOk (i : Nat) (c : Sym) : (s.setObuf i c).cfgOk = s.cfgOk := rfl
@[simp] theorem State.setObuf_phase (i : Nat) (c : Sym) : (s.setObuf i c).phase = s.phase := rfl
@[simp] theorem State.setObuf_cnt (i : Nat) (c : Sym) : (s.setObuf i c).cnt = s.cnt := rfl
@[simp] theorem State.setObuf_len (i : Nat) (c : Sym) : (s.setObuf i c).len = s.len := rfl
@[simp] theorem State.setObuf_acc (i : Nat) (c : Sym) : (s.setObuf i c).acc = s.acc := rfl
@[simp] theorem State.setObuf_ibuf (i : Nat) (c : Sym) : (s.setObuf i c).ibuf = s.ibuf := rfl
@[simp] theorem State.setObuf_obuf (i : Nat) (c : Sym) : (s.setObuf i c).obuf = s.obuf.write i c := rfl
@[simp] theorem State.setObuf_opk (i : Nat) (c : Sym) : (s.setObuf i c).opk = s.opk := rfl
@[simp] theorem State.setObuf_err (i : Nat) (c : Sym) : (s.setObuf i c).err = s.err := rfl
@[simp] theorem State.setObuf_errInfo (i : Nat) (c : Sym) : (s.setObuf i c).errInfo = s.errInfo := rfl
@[simp] theorem State.setObuf_resV (i : Nat) (c : Sym) : (s.setObuf i c).resV = s.resV := rfl
@[simp] theorem State.setObuf_obufV (i : Nat) (c : Sym) : (s.setObuf i c).obufV = s.obufV := rfl
@[simp] theorem State.setObuf_inputs (i : Nat) (c : Sym) : (s.setObuf i c).inputs = s.inputs := rfl
@[simp] theorem State.setObuf_resets (i : Nat) (c : Sym) : (s.setObuf i c).resets = s.resets := rfl

@[simp] theorem State.setRev_fwd (c : Sym) (i : BitVec 8) : (s.setRev c i).fwd = s.fwd := rfl
@[simp] theorem State.setRev_rev (c : Sym) (i : BitVec 8) : (s.setRev c i).rev = s.rev.write c.toNat i := rfl
@[simp] theorem State.setRev_b (c : Sym) (i : BitVec 8) : (s.setRev c i).b = s.b := rfl
@[simp] theorem State.setRev_w (c : Sym) (i : BitVec 8) : (s.setRev c i).w = s.w := rfl
@[simp] theorem State.setRev_cfgOk (c : Sym) (i : BitVec 8) : (s.setRev c i).cfgOk = s.cfgOk := rfl
@[simp] theorem State.setRev_phase (c : Sym) (i : BitVec 8) : (s.setRev c i).phase = s.phase := rfl
@[simp] theorem State.setRev_cnt (c : Sym) (i : BitVec 8) : (s.setRev c i).cnt = s.cnt := rfl
@[simp] theorem State.setRev_len (c : Sym) (i : BitVec 8) : (s.setRev c i).len = s.len := rfl
@[simp] theorem State.setRev_acc (c : Sym) (i : BitVec 8) : (s.setRev c i).acc = s.acc := rfl
@[simp] theorem State.setRev_ibuf (c : Sym) (i : BitVec 8) : (s.setRev c i).ibuf = s.ibuf := rfl
@[simp] theorem State.setRev_obuf (c : Sym) (i : BitVec 8) : (s.setRev c i).obuf = s.obuf := rfl
@[simp] theorem State.setRev_opk (c : Sym) (i : BitVec 8) : (s.setRev c i).opk = s.opk := rfl
@[simp] theorem State.setRev_err (c : Sym) (i : BitVec 8) : (s.setRev c i).err = s.err := rfl
@[simp] theorem State.setRev_errInfo (c : Sym) (i : BitVec 8) : (s.setRev c i).errInfo = s.errInfo := rfl
@[simp] theorem State.setRev_resV (c : Sym) (i : BitVec 8) : (s.setRev c i).resV = s.resV := rfl
@[simp] theorem State.setRev_obufV (c : Sym) (i : BitVec 8) : (s.setRev c i).obufV = s.obufV := rfl
@[simp] theorem State.setRev_inputs (c : Sym) (i : BitVec 8) : (s.setRev c i).inputs = s.inputs := rfl
@[simp] theorem State.setRev_resets (c : Sym) (i : BitVec 8) : (s.setRev c i).resets = s.resets := rfl

@[simp] theorem State.clearRev_fwd : (s.clearRev).fwd = s.fwd := rfl
@[simp] theorem State.clearRev_rev : (s.clearRev).rev = [] := rfl
@[simp] theorem State.clearRev_b : (s.clearRev).b = s.b := rfl
@[simp] theorem State.clearRev_w : (s.clearRev).w = s.w := rfl
@[simp] theorem State.clearRev_cfgOk : (s.clearRev).cfgOk = s.cfgOk := rfl
@[simp] theorem State.clearRev_phase : (s.clearRev).phase = s.phase := rfl
@[simp] theorem State.clearRev_cnt : (s.clearRev).cnt = s.cnt := rfl
@[simp] theorem State.clearRev_len : (s.clearRev).len = s.len := rfl
@[simp] theorem State.clearRev_acc : (s.clearRev).acc = s.acc := rfl
@[simp] theorem State.clearRev_ibuf : (s.clearRev).ibuf = s.ibuf := rfl
@[simp] theorem State.clearRev_obuf : (s.clearRev).obuf = s.obuf := rfl
@[simp] theorem State.clearRev_opk : (s.clearRev).opk = s.opk := rfl
@[simp] theorem State.clearRev_err : (s.clearRev).err = s.err := rfl
@[simp] theorem State.clearRev_errInfo : (s.clearRev).errInfo = s.errInfo := rfl
@[simp] theorem State.clearRev_resV : (s.clearRev).resV = s.resV := rfl
@[simp] theorem State.clearRev_obufV : (s.clearRev).obufV = s.obufV := rfl
@[simp] theorem State.clearRev_inputs : (s.clearRev).inputs = s.inputs := rfl
@[simp] theorem State.clearRev_resets : (s.clearRev).resets = s.resets := rfl

@[simp] theorem State.report_fwd (k : OpKind) (e : ErrCode) (x : Idx) : (s.report k e x).fwd = s.fwd := rfl
@[simp] theorem State.report_rev (k : OpKind) (e : ErrCode) (x : Idx) : (s.report k e x).rev = s.rev := rfl
@[simp] theorem State.report_b (k : OpKind) (e : ErrCode) (x : Idx) : (s.report k e x).b = s.b := rfl
@[simp] theorem State.report_w (k : OpKind) (e : ErrCode) (x : Idx) : (s.report k e x).w = s.w := rfl
@[simp] theorem State.report_cfgOk (k : OpKind) (e : ErrCode) (x : Idx) : (s.report k e x).cfgOk = s.cfgOk := rfl
@[simp] theorem State.report_phase (k : OpKind) (e : ErrCode) (x : Idx) : (s.report k e x).phase = s.phase := rfl
@[simp] theorem State.report_cnt (k : OpKind) (e : ErrCode) (x : Idx) : (s.report k e x).cnt = s.cnt := rfl
@[simp] theorem State.report_len (k : OpKind) (e : ErrCode) (x : Idx) : (s.report k e x).len = s.len := rfl
@[simp] theorem State.report_acc (k : OpKind) (e : ErrCode) (x : Idx) : (s.report k e x).acc = s.acc := rfl
@[simp] theorem State.report_ibuf (k : OpKind) (e : ErrCode) (x : Idx) : (s.report k e x).ibuf = s.ibuf := rfl
@[simp] theorem State.report_obuf (k : OpKind) (e : ErrCode) (x : Idx) : (s.report k e x).obuf = s.obuf := rfl
@[simp] theorem State.report_opk (k : OpKind) (e : ErrCode) (x : Idx) : (s.report k e x).opk = k := rfl
@[simp] theorem State.report_err (k : OpKind) (e : ErrCode) (x : Idx) : (s.report k e x).err = e := rfl
@[simp] theorem State.report_errInfo (k : OpKind) (e : ErrCode) (x : Idx) : (s.report k e x).errInfo = x := rfl
@[simp] theorem State.report_resV (k : OpKind) (e : ErrCode) (x : Idx) : (s.report k e x).resV = s.resV := rfl
@[simp] theorem State.report_obufV (k : OpKind) (e : ErrCode) (x : Idx) : (s.report k e x).obufV = s.obufV := rfl
@[simp] theorem State.report_inputs (k : OpKind) (e : ErrCode) (x : Idx) : (s.report k e x).inputs = s.inputs := rfl
@[simp] theorem State.report_resets (k : OpKind) (e : ErrCode) (x : Idx) : (s.report k e x).resets = s.resets := rfl

@[simp] theorem State.acceptFault_fwd (k : OpKind) (e : ErrCode) (x : Idx) : (s.acceptFault k e x).fwd = s.fwd := rfl
@[simp] theorem State.acceptFault_rev (k : OpKind) (e : ErrCode) (x : Idx) : (s.acceptFault k e x).rev = s.rev := rfl
@[simp] theorem State.acceptFault_b (k : OpKind) (e : ErrCode) (x : Idx) : (s.acceptFault k e x).b = s.b := rfl
@[simp] theorem State.acceptFault_w (k : OpKind) (e : ErrCode) (x : Idx) : (s.acceptFault k e x).w = s.w := rfl
@[simp] theorem State.acceptFault_cfgOk (k : OpKind) (e : ErrCode) (x : Idx) : (s.acceptFault k e x).cfgOk = s.cfgOk := rfl
@[simp] theorem State.acceptFault_phase (k : OpKind) (e : ErrCode) (x : Idx) : (s.acceptFault k e x).phase = s.phase := rfl
@[simp] theorem State.acceptFault_cnt (k : OpKind) (e : ErrCode) (x : Idx) : (s.acceptFault k e x).cnt = s.cnt := rfl
@[simp] theorem State.acceptFault_len (k : OpKind) (e : ErrCode) (x : Idx) : (s.acceptFault k e x).len = s.len := rfl
@[simp] theorem State.acceptFault_acc (k : OpKind) (e : ErrCode) (x : Idx) : (s.acceptFault k e x).acc = s.acc := rfl
@[simp] theorem State.acceptFault_ibuf (k : OpKind) (e : ErrCode) (x : Idx) : (s.acceptFault k e x).ibuf = s.ibuf := rfl
@[simp] theorem State.acceptFault_obuf (k : OpKind) (e : ErrCode) (x : Idx) : (s.acceptFault k e x).obuf = s.obuf := rfl
@[simp] theorem State.acceptFault_opk (k : OpKind) (e : ErrCode) (x : Idx) : (s.acceptFault k e x).opk = k := rfl
@[simp] theorem State.acceptFault_err (k : OpKind) (e : ErrCode) (x : Idx) : (s.acceptFault k e x).err = e := rfl
@[simp] theorem State.acceptFault_errInfo (k : OpKind) (e : ErrCode) (x : Idx) : (s.acceptFault k e x).errInfo = x := rfl
@[simp] theorem State.acceptFault_resV (k : OpKind) (e : ErrCode) (x : Idx) : (s.acceptFault k e x).resV = s.resV := rfl
@[simp] theorem State.acceptFault_obufV (k : OpKind) (e : ErrCode) (x : Idx) : (s.acceptFault k e x).obufV = s.obufV := rfl
@[simp] theorem State.acceptFault_inputs (k : OpKind) (e : ErrCode) (x : Idx) : (s.acceptFault k e x).inputs = s.inputs := rfl
@[simp] theorem State.acceptFault_resets (k : OpKind) (e : ErrCode) (x : Idx) : (s.acceptFault k e x).resets = s.resets := rfl

@[simp] theorem State.acceptOk_fwd (k : OpKind) : (s.acceptOk k).fwd = s.fwd := rfl
@[simp] theorem State.acceptOk_rev (k : OpKind) : (s.acceptOk k).rev = s.rev := rfl
@[simp] theorem State.acceptOk_b (k : OpKind) : (s.acceptOk k).b = s.b := rfl
@[simp] theorem State.acceptOk_w (k : OpKind) : (s.acceptOk k).w = s.w := rfl
@[simp] theorem State.acceptOk_cfgOk (k : OpKind) : (s.acceptOk k).cfgOk = s.cfgOk := rfl
@[simp] theorem State.acceptOk_phase (k : OpKind) : (s.acceptOk k).phase = s.phase := rfl
@[simp] theorem State.acceptOk_cnt (k : OpKind) : (s.acceptOk k).cnt = s.cnt := rfl
@[simp] theorem State.acceptOk_len (k : OpKind) : (s.acceptOk k).len = s.len := rfl
@[simp] theorem State.acceptOk_acc (k : OpKind) : (s.acceptOk k).acc = s.acc := rfl
@[simp] theorem State.acceptOk_ibuf (k : OpKind) : (s.acceptOk k).ibuf = s.ibuf := rfl
@[simp] theorem State.acceptOk_obuf (k : OpKind) : (s.acceptOk k).obuf = s.obuf := rfl
@[simp] theorem State.acceptOk_opk (k : OpKind) : (s.acceptOk k).opk = k := rfl
@[simp] theorem State.acceptOk_err (k : OpKind) : (s.acceptOk k).err = .ok := rfl
@[simp] theorem State.acceptOk_errInfo (k : OpKind) : (s.acceptOk k).errInfo = 0 := rfl
@[simp] theorem State.acceptOk_resV (k : OpKind) : (s.acceptOk k).resV = s.resV := rfl
@[simp] theorem State.acceptOk_obufV (k : OpKind) : (s.acceptOk k).obufV = s.obufV := rfl
@[simp] theorem State.acceptOk_inputs (k : OpKind) : (s.acceptOk k).inputs = s.inputs := rfl
@[simp] theorem State.acceptOk_resets (k : OpKind) : (s.acceptOk k).resets = s.resets := rfl

@[simp] theorem State.startRun_fwd (p : Phase) : (s.startRun p).fwd = s.fwd := rfl
@[simp] theorem State.startRun_rev (p : Phase) : (s.startRun p).rev = s.rev := rfl
@[simp] theorem State.startRun_b (p : Phase) : (s.startRun p).b = s.b := rfl
@[simp] theorem State.startRun_w (p : Phase) : (s.startRun p).w = s.w := rfl
@[simp] theorem State.startRun_cfgOk (p : Phase) : (s.startRun p).cfgOk = s.cfgOk := rfl
@[simp] theorem State.startRun_phase (p : Phase) : (s.startRun p).phase = p := rfl
@[simp] theorem State.startRun_cnt (p : Phase) : (s.startRun p).cnt = 0 := rfl
@[simp] theorem State.startRun_len (p : Phase) : (s.startRun p).len = s.len := rfl
@[simp] theorem State.startRun_acc (p : Phase) : (s.startRun p).acc = s.acc := rfl
@[simp] theorem State.startRun_ibuf (p : Phase) : (s.startRun p).ibuf = s.ibuf := rfl
@[simp] theorem State.startRun_obuf (p : Phase) : (s.startRun p).obuf = s.obuf := rfl
@[simp] theorem State.startRun_opk (p : Phase) : (s.startRun p).opk = s.opk := rfl
@[simp] theorem State.startRun_err (p : Phase) : (s.startRun p).err = s.err := rfl
@[simp] theorem State.startRun_errInfo (p : Phase) : (s.startRun p).errInfo = s.errInfo := rfl
@[simp] theorem State.startRun_resV (p : Phase) : (s.startRun p).resV = s.resV := rfl
@[simp] theorem State.startRun_obufV (p : Phase) : (s.startRun p).obufV = s.obufV := rfl
@[simp] theorem State.startRun_inputs (p : Phase) : (s.startRun p).inputs = s.inputs := rfl
@[simp] theorem State.startRun_resets (p : Phase) : (s.startRun p).resets = s.resets := rfl

@[simp] theorem State.countStep_fwd : (s.countStep).fwd = s.fwd := rfl
@[simp] theorem State.countStep_rev : (s.countStep).rev = s.rev := rfl
@[simp] theorem State.countStep_b : (s.countStep).b = s.b := rfl
@[simp] theorem State.countStep_w : (s.countStep).w = s.w := rfl
@[simp] theorem State.countStep_cfgOk : (s.countStep).cfgOk = s.cfgOk := rfl
@[simp] theorem State.countStep_phase : (s.countStep).phase = s.phase := rfl
@[simp] theorem State.countStep_cnt : (s.countStep).cnt = s.cnt + 1 := rfl
@[simp] theorem State.countStep_len : (s.countStep).len = s.len := rfl
@[simp] theorem State.countStep_acc : (s.countStep).acc = s.acc := rfl
@[simp] theorem State.countStep_ibuf : (s.countStep).ibuf = s.ibuf := rfl
@[simp] theorem State.countStep_obuf : (s.countStep).obuf = s.obuf := rfl
@[simp] theorem State.countStep_opk : (s.countStep).opk = s.opk := rfl
@[simp] theorem State.countStep_err : (s.countStep).err = s.err := rfl
@[simp] theorem State.countStep_errInfo : (s.countStep).errInfo = s.errInfo := rfl
@[simp] theorem State.countStep_resV : (s.countStep).resV = s.resV := rfl
@[simp] theorem State.countStep_obufV : (s.countStep).obufV = s.obufV := rfl
@[simp] theorem State.countStep_inputs : (s.countStep).inputs = s.inputs := rfl
@[simp] theorem State.countStep_resets : (s.countStep).resets = s.resets := rfl

@[simp] theorem State.complete_fwd (e : ErrCode) (x : Idx) : (s.complete e x).fwd = s.fwd := rfl
@[simp] theorem State.complete_rev (e : ErrCode) (x : Idx) : (s.complete e x).rev = s.rev := rfl
@[simp] theorem State.complete_b (e : ErrCode) (x : Idx) : (s.complete e x).b = s.b := rfl
@[simp] theorem State.complete_w (e : ErrCode) (x : Idx) : (s.complete e x).w = s.w := rfl
@[simp] theorem State.complete_cfgOk (e : ErrCode) (x : Idx) : (s.complete e x).cfgOk = s.cfgOk := rfl
@[simp] theorem State.complete_phase (e : ErrCode) (x : Idx) : (s.complete e x).phase = .idle := rfl
@[simp] theorem State.complete_cnt (e : ErrCode) (x : Idx) : (s.complete e x).cnt = s.cnt := rfl
@[simp] theorem State.complete_len (e : ErrCode) (x : Idx) : (s.complete e x).len = s.len := rfl
@[simp] theorem State.complete_acc (e : ErrCode) (x : Idx) : (s.complete e x).acc = s.acc := rfl
@[simp] theorem State.complete_ibuf (e : ErrCode) (x : Idx) : (s.complete e x).ibuf = s.ibuf := rfl
@[simp] theorem State.complete_obuf (e : ErrCode) (x : Idx) : (s.complete e x).obuf = s.obuf := rfl
@[simp] theorem State.complete_opk (e : ErrCode) (x : Idx) : (s.complete e x).opk = s.opk := rfl
@[simp] theorem State.complete_err (e : ErrCode) (x : Idx) : (s.complete e x).err = e := rfl
@[simp] theorem State.complete_errInfo (e : ErrCode) (x : Idx) : (s.complete e x).errInfo = x := rfl
@[simp] theorem State.complete_resV (e : ErrCode) (x : Idx) : (s.complete e x).resV = s.resV := rfl
@[simp] theorem State.complete_obufV (e : ErrCode) (x : Idx) : (s.complete e x).obufV = s.obufV := rfl
@[simp] theorem State.complete_inputs (e : ErrCode) (x : Idx) : (s.complete e x).inputs = s.inputs := rfl
@[simp] theorem State.complete_resets (e : ErrCode) (x : Idx) : (s.complete e x).resets = s.resets := rfl

@[simp] theorem State.clearResults_fwd : (s.clearResults).fwd = s.fwd := rfl
@[simp] theorem State.clearResults_rev : (s.clearResults).rev = s.rev := rfl
@[simp] theorem State.clearResults_b : (s.clearResults).b = s.b := rfl
@[simp] theorem State.clearResults_w : (s.clearResults).w = s.w := rfl
@[simp] theorem State.clearResults_cfgOk : (s.clearResults).cfgOk = s.cfgOk := rfl
@[simp] theorem State.clearResults_phase : (s.clearResults).phase = s.phase := rfl
@[simp] theorem State.clearResults_cnt : (s.clearResults).cnt = s.cnt := rfl
@[simp] theorem State.clearResults_len : (s.clearResults).len = s.len := rfl
@[simp] theorem State.clearResults_acc : (s.clearResults).acc = s.acc := rfl
@[simp] theorem State.clearResults_ibuf : (s.clearResults).ibuf = s.ibuf := rfl
@[simp] theorem State.clearResults_obuf : (s.clearResults).obuf = s.obuf := rfl
@[simp] theorem State.clearResults_opk : (s.clearResults).opk = s.opk := rfl
@[simp] theorem State.clearResults_err : (s.clearResults).err = s.err := rfl
@[simp] theorem State.clearResults_errInfo : (s.clearResults).errInfo = s.errInfo := rfl
@[simp] theorem State.clearResults_resV : (s.clearResults).resV = false := rfl
@[simp] theorem State.clearResults_obufV : (s.clearResults).obufV = false := rfl
@[simp] theorem State.clearResults_inputs : (s.clearResults).inputs = s.inputs := rfl
@[simp] theorem State.clearResults_resets : (s.clearResults).resets = s.resets := rfl

@[simp] theorem State.setResV_fwd : (s.setResV).fwd = s.fwd := rfl
@[simp] theorem State.setResV_rev : (s.setResV).rev = s.rev := rfl
@[simp] theorem State.setResV_b : (s.setResV).b = s.b := rfl
@[simp] theorem State.setResV_w : (s.setResV).w = s.w := rfl
@[simp] theorem State.setResV_cfgOk : (s.setResV).cfgOk = s.cfgOk := rfl
@[simp] theorem State.setResV_phase : (s.setResV).phase = s.phase := rfl
@[simp] theorem State.setResV_cnt : (s.setResV).cnt = s.cnt := rfl
@[simp] theorem State.setResV_len : (s.setResV).len = s.len := rfl
@[simp] theorem State.setResV_acc : (s.setResV).acc = s.acc := rfl
@[simp] theorem State.setResV_ibuf : (s.setResV).ibuf = s.ibuf := rfl
@[simp] theorem State.setResV_obuf : (s.setResV).obuf = s.obuf := rfl
@[simp] theorem State.setResV_opk : (s.setResV).opk = s.opk := rfl
@[simp] theorem State.setResV_err : (s.setResV).err = s.err := rfl
@[simp] theorem State.setResV_errInfo : (s.setResV).errInfo = s.errInfo := rfl
@[simp] theorem State.setResV_resV : (s.setResV).resV = true := rfl
@[simp] theorem State.setResV_obufV : (s.setResV).obufV = s.obufV := rfl
@[simp] theorem State.setResV_inputs : (s.setResV).inputs = s.inputs := rfl
@[simp] theorem State.setResV_resets : (s.setResV).resets = s.resets := rfl

@[simp] theorem State.setObufV_fwd : (s.setObufV).fwd = s.fwd := rfl
@[simp] theorem State.setObufV_rev : (s.setObufV).rev = s.rev := rfl
@[simp] theorem State.setObufV_b : (s.setObufV).b = s.b := rfl
@[simp] theorem State.setObufV_w : (s.setObufV).w = s.w := rfl
@[simp] theorem State.setObufV_cfgOk : (s.setObufV).cfgOk = s.cfgOk := rfl
@[simp] theorem State.setObufV_phase : (s.setObufV).phase = s.phase := rfl
@[simp] theorem State.setObufV_cnt : (s.setObufV).cnt = s.cnt := rfl
@[simp] theorem State.setObufV_len : (s.setObufV).len = s.len := rfl
@[simp] theorem State.setObufV_acc : (s.setObufV).acc = s.acc := rfl
@[simp] theorem State.setObufV_ibuf : (s.setObufV).ibuf = s.ibuf := rfl
@[simp] theorem State.setObufV_obuf : (s.setObufV).obuf = s.obuf := rfl
@[simp] theorem State.setObufV_opk : (s.setObufV).opk = s.opk := rfl
@[simp] theorem State.setObufV_err : (s.setObufV).err = s.err := rfl
@[simp] theorem State.setObufV_errInfo : (s.setObufV).errInfo = s.errInfo := rfl
@[simp] theorem State.setObufV_resV : (s.setObufV).resV = s.resV := rfl
@[simp] theorem State.setObufV_obufV : (s.setObufV).obufV = true := rfl
@[simp] theorem State.setObufV_inputs : (s.setObufV).inputs = s.inputs := rfl
@[simp] theorem State.setObufV_resets : (s.setObufV).resets = s.resets := rfl

@[simp] theorem State.lockAlphabet_fwd (n : Nat) : (s.lockAlphabet n).fwd = s.fwd := rfl
@[simp] theorem State.lockAlphabet_rev (n : Nat) : (s.lockAlphabet n).rev = s.rev := rfl
@[simp] theorem State.lockAlphabet_b (n : Nat) : (s.lockAlphabet n).b = BitVec.ofNat 9 n := rfl
@[simp] theorem State.lockAlphabet_w (n : Nat) : (s.lockAlphabet n).w = BitVec.ofNat 6 (width n) := rfl
@[simp] theorem State.lockAlphabet_cfgOk (n : Nat) : (s.lockAlphabet n).cfgOk = true := rfl
@[simp] theorem State.lockAlphabet_phase (n : Nat) : (s.lockAlphabet n).phase = s.phase := rfl
@[simp] theorem State.lockAlphabet_cnt (n : Nat) : (s.lockAlphabet n).cnt = s.cnt := rfl
@[simp] theorem State.lockAlphabet_len (n : Nat) : (s.lockAlphabet n).len = s.len := rfl
@[simp] theorem State.lockAlphabet_acc (n : Nat) : (s.lockAlphabet n).acc = s.acc := rfl
@[simp] theorem State.lockAlphabet_ibuf (n : Nat) : (s.lockAlphabet n).ibuf = s.ibuf := rfl
@[simp] theorem State.lockAlphabet_obuf (n : Nat) : (s.lockAlphabet n).obuf = s.obuf := rfl
@[simp] theorem State.lockAlphabet_opk (n : Nat) : (s.lockAlphabet n).opk = s.opk := rfl
@[simp] theorem State.lockAlphabet_err (n : Nat) : (s.lockAlphabet n).err = s.err := rfl
@[simp] theorem State.lockAlphabet_errInfo (n : Nat) : (s.lockAlphabet n).errInfo = s.errInfo := rfl
@[simp] theorem State.lockAlphabet_resV (n : Nat) : (s.lockAlphabet n).resV = s.resV := rfl
@[simp] theorem State.lockAlphabet_obufV (n : Nat) : (s.lockAlphabet n).obufV = s.obufV := rfl
@[simp] theorem State.lockAlphabet_inputs (n : Nat) : (s.lockAlphabet n).inputs = s.inputs := rfl
@[simp] theorem State.lockAlphabet_resets (n : Nat) : (s.lockAlphabet n).resets = s.resets := rfl

@[simp] theorem State.toReset_fwd : (s.toReset).fwd = [] := rfl
@[simp] theorem State.toReset_rev : (s.toReset).rev = [] := rfl
@[simp] theorem State.toReset_b : (s.toReset).b = 0 := rfl
@[simp] theorem State.toReset_w : (s.toReset).w = 0 := rfl
@[simp] theorem State.toReset_cfgOk : (s.toReset).cfgOk = false := rfl
@[simp] theorem State.toReset_phase : (s.toReset).phase = .idle := rfl
@[simp] theorem State.toReset_cnt : (s.toReset).cnt = 0 := rfl
@[simp] theorem State.toReset_len : (s.toReset).len = 0 := rfl
@[simp] theorem State.toReset_acc : (s.toReset).acc = Config.freeAcc s.resets := rfl
@[simp] theorem State.toReset_ibuf : (s.toReset).ibuf = [] := rfl
@[simp] theorem State.toReset_obuf : (s.toReset).obuf = [] := rfl
@[simp] theorem State.toReset_opk : (s.toReset).opk = .none := rfl
@[simp] theorem State.toReset_err : (s.toReset).err = .ok := rfl
@[simp] theorem State.toReset_errInfo : (s.toReset).errInfo = 0 := rfl
@[simp] theorem State.toReset_resV : (s.toReset).resV = false := rfl
@[simp] theorem State.toReset_obufV : (s.toReset).obufV = false := rfl
@[simp] theorem State.toReset_inputs : (s.toReset).inputs = s.inputs := rfl
@[simp] theorem State.toReset_resets : (s.toReset).resets = s.resets + 1 := rfl

end Sys2Proof.Machine
end

