-- ==== Sys2Proof/Laws/Memory.lean ====
section
/-! SUPPORT. The laws of the tables: a read after a write, the canonical form and the index bound are kept by every
operation, and tables in canonical form that read alike are equal. -/

namespace Sys2Proof.Machine

@[simp] theorem Memory.read?_nil (a : Nat) : Memory.read? [] a = none := rfl

theorem Memory.read?_cons (k : Nat) (v : BitVec 8) (m : Memory) (a : Nat) :
    Memory.read? ((k, v) :: m) a = if k = a then some v else Memory.read? m a := rfl

theorem Memory.read?_write_same (m : Memory) (a : Nat) (v : BitVec 8) : (m.write a v).read? a = some v := by
  induction m with
  | nil => simp [Memory.write, Memory.read?]
  | cons c m ih =>
    obtain ⟨k, x⟩ := c
    simp only [Memory.write]
    split
    · simp [Memory.read?]
    · split
      · simp [Memory.read?]
      · simp only [Memory.read?]
        split
        · omega
        · exact ih

theorem Memory.read?_write_ne (m : Memory) {a b : Nat} (v : BitVec 8) (h : b ≠ a) :
    (m.write a v).read? b = m.read? b := by
  induction m with
  | nil => simp [Memory.write, Memory.read?]; omega
  | cons c m ih =>
    obtain ⟨k, x⟩ := c
    simp only [Memory.write]
    split
    · rw [Memory.read?_cons]; split
      · omega
      · rfl
    · split
      · simp only [Memory.read?]; split
        · omega
        · split
          · omega
          · rfl
      · simp only [Memory.read?, ih]

/-- A read after a write: the value written at its index, everything else as before. -/
theorem Memory.read?_write (m : Memory) (a b : Nat) (v : BitVec 8) :
    (m.write a v).read? b = if b = a then some v else m.read? b := by
  split
  · subst b; exact m.read?_write_same a v
  · exact m.read?_write_ne v ‹_›

theorem Memory.mem_write {m : Memory} {a : Nat} {v : BitVec 8} {c : Host.Cell} (h : c ∈ m.write a v) :
    c = (a, v) ∨ c ∈ m := by
  induction m with
  | nil => simpa [Memory.write] using h
  | cons d m ih =>
    obtain ⟨k, x⟩ := d
    simp only [Memory.write] at h
    split at h
    · simpa using h
    · split at h
      · rcases List.mem_cons.1 h with h | h
        · exact .inl h
        · exact .inr (List.mem_cons_of_mem _ h)
      · rcases List.mem_cons.1 h with h | h
        · exact .inr (h ▸ List.mem_cons_self)
        · rcases ih h with h | h
          · exact .inl h
          · exact .inr (List.mem_cons_of_mem _ h)

/-- Every write keeps the canonical form. -/
theorem Memory.wf_write {m : Memory} (a : Nat) (v : BitVec 8) (h : m.wf) : (m.write a v).wf := by
  induction m with
  | nil => simp [Memory.write, Memory.wf]
  | cons d m ih =>
    obtain ⟨k, x⟩ := d
    obtain ⟨hk, hm⟩ := List.pairwise_cons.1 h
    simp only [Memory.write]
    split
    · rename_i hak
      refine List.pairwise_cons.2 ⟨fun c hc => ?_, h⟩
      rcases List.mem_cons.1 hc with rfl | hc
      · exact hak
      · exact Nat.lt_trans hak (hk c hc)
    · split
      · rename_i hak
        subst hak
        exact List.pairwise_cons.2 ⟨hk, hm⟩
      · refine List.pairwise_cons.2 ⟨fun c hc => ?_, ih hm⟩
        rcases Memory.mem_write hc with rfl | hc
        · show k < a; omega
        · exact hk c hc

/-- A write below the bound keeps the bound. -/
theorem Memory.within_write {m : Memory} {n a : Nat} (v : BitVec 8) (ha : a < n) (h : m.within n) :
    (m.write a v).within n := by
  intro c hc
  rcases Memory.mem_write hc with rfl | hc
  · exact ha
  · exact h c hc

theorem Memory.read?_eq_none_of_lt {m : Memory} {a : Nat} (h : ∀ c ∈ m, a < c.1) : m.read? a = none := by
  induction m with
  | nil => rfl
  | cons d m ih =>
    obtain ⟨k, x⟩ := d
    have hk : a < k := h (k, x) List.mem_cons_self
    rw [Memory.read?_cons, if_neg (by omega)]
    exact ih fun c hc => h c (List.mem_cons_of_mem _ hc)

theorem Memory.read?_eq_none_of_within {m : Memory} {n a : Nat} (h : m.within n) (ha : n ≤ a) : m.read? a = none := by
  induction m with
  | nil => rfl
  | cons d m ih =>
    obtain ⟨k, x⟩ := d
    have hk : k < n := h (k, x) List.mem_cons_self
    rw [Memory.read?_cons, if_neg (by omega)]
    exact ih fun c hc => h c (List.mem_cons_of_mem _ hc)

/-- In canonical form, tables that read alike everywhere are equal. -/
theorem Memory.eq_of_read? {m n : Memory} (hm : m.wf) (hn : n.wf) (h : ∀ a, m.read? a = n.read? a) : m = n := by
  induction m generalizing n with
  | nil =>
    cases n with
    | nil => rfl
    | cons d n =>
      obtain ⟨k, x⟩ := d
      have := h k
      simp [Memory.read?] at this
  | cons c m ih =>
    obtain ⟨k, x⟩ := c
    obtain ⟨hk, hm'⟩ := List.pairwise_cons.1 hm
    cases n with
    | nil =>
      have := h k
      simp [Memory.read?] at this
    | cons d n =>
      obtain ⟨l, y⟩ := d
      obtain ⟨hl, hn'⟩ := List.pairwise_cons.1 hn
      have hkl : k = l := by
        rcases Nat.lt_trichotomy k l with hlt | heq | hgt
        · have h1 := h k
          rw [Memory.read?_cons, if_pos rfl, Memory.read?_cons, if_neg (by omega),
            Memory.read?_eq_none_of_lt fun c hc => Nat.lt_trans hlt (hl c hc)] at h1
          exact absurd h1 (by simp)
        · exact heq
        · have h1 := h l
          rw [Memory.read?_cons, if_neg (by omega), Memory.read?_cons, if_pos rfl,
            Memory.read?_eq_none_of_lt fun c hc => Nat.lt_trans hgt (hk c hc)] at h1
          exact absurd h1 (by simp)
      subst hkl
      have hxy : x = y := by
        have h1 := h k
        simpa [Memory.read?] using h1
      subst hxy
      congr 1
      refine ih hm' hn' fun a => ?_
      by_cases hak : k = a
      · subst hak
        rw [Memory.read?_eq_none_of_lt hk, Memory.read?_eq_none_of_lt hl]
      · have h1 := h a
        simpa [Memory.read?, hak] using h1

theorem Memory.wf_nil : Memory.wf [] := List.Pairwise.nil

theorem Memory.within_nil (n : Nat) : Memory.within [] n := by intro c hc; cases hc

end Sys2Proof.Machine
end

