-- ==== Sys2Proof/Laws/Ops.lean ====
section
/-! SUPPORT. What the table reads of State give after each named operation, and what the ports show of a result. -/

namespace Sys2Proof.Machine

variable (s : State)

theorem State.fwdAt_congr {s t : State} (h : t.fwd = s.fwd) (hr : t.resets = s.resets) (i : Nat) :
    t.fwdAt i = s.fwdAt i := by
  simp only [State.fwdAt, h, hr]

theorem State.ibufAt_congr {s t : State} (h : t.ibuf = s.ibuf) (hr : t.resets = s.resets) (j : Nat) :
    t.ibufAt j = s.ibufAt j := by
  simp only [State.ibufAt, h, hr]

theorem State.obufAt_congr {s t : State} (h : t.obuf = s.obuf) (hr : t.resets = s.resets) (j : Nat) :
    t.obufAt j = s.obufAt j := by
  simp only [State.obufAt, h, hr]

theorem State.revAt_congr {s t : State} (h : t.rev = s.rev) (sym : Sym) : t.revAt sym = s.revAt sym := by
  simp only [State.revAt, h]

theorem State.fwdAt_setFwd (i : Nat) (sym : Sym) (k : Nat) :
    (s.setFwd i sym).fwdAt k = if k = i then sym else s.fwdAt k := by
  simp only [State.fwdAt, State.setFwd_fwd, State.setFwd_resets, Memory.read?_write]
  split <;> rfl

theorem State.ibufAt_setIbuf (j : Nat) (sym : Sym) (k : Nat) :
    (s.setIbuf j sym).ibufAt k = if k = j then sym else s.ibufAt k := by
  simp only [State.ibufAt, State.setIbuf_ibuf, State.setIbuf_resets, Memory.read?_write]
  split <;> rfl

theorem State.obufAt_setObuf (j : Nat) (sym : Sym) (k : Nat) :
    (s.setObuf j sym).obufAt k = if k = j then sym else s.obufAt k := by
  simp only [State.obufAt, State.setObuf_obuf, State.setObuf_resets, Memory.read?_write]
  split <;> rfl

theorem State.revAt_setRev (sym : Sym) (i : BitVec 8) (c : Sym) :
    (s.setRev sym i).revAt c = if c = sym then some i else s.revAt c := by
  simp only [State.revAt, State.setRev_rev, Memory.read?_write, BitVec.toNat_inj]

@[simp] theorem State.revAt_clearRev (c : Sym) : s.clearRev.revAt c = none := rfl

/-! The results a host can read, and what the ports show of them at every observation. -/

theorem State.decodedValue_of_valid {s : State} (hv : s.resV = true) (hp : s.phase = .idle) :
    s.decodedValue = some (s.acc.setWidth 128) := by
  rw [State.decodedValue, if_pos ⟨hv, hp⟩]

theorem State.encodedString_of_valid {s : State} (hv : s.obufV = true) (hp : s.phase = .idle) :
    s.encodedString = some ((List.range s.w.toNat).map s.obufAt) := by
  rw [State.encodedString, if_pos ⟨hv, hp⟩]

theorem State.resPort_of_decodedValue {s : State} {v : Value} (h : s.decodedValue = some v) (k : Nat) :
    s.resPort k = v := by
  rw [State.resPort, h]; rfl

theorem State.obufPort_of_encodedString {s : State} {str : List Sym} (h : s.encodedString = some str) {j : Nat} {c : Sym}
    (hj : str[j]? = some c) (k : Nat) : s.obufPort k j = c := by
  rw [State.obufPort, h]
  simp only [Option.bind_some, hj]
  rfl

end Sys2Proof.Machine
end

