-- ==== Sys2Proof/Laws/Step.lean ====
section
/-! SUPPORT. What one step can do, said once per part of the step function: each lemma lists every case in which it
answers a next state, with the conditions and the state. -/

namespace Sys2Proof.Machine

theorem execWrsym_cases {idx : Idx} {sym : Sym} {s t : State} (h : execWrsym idx sym s = .next t) :
    (s.cfgOk = true ∧ t = s.acceptFault .wrsym .locked idx) ∨
    (s.cfgOk = false ∧ 256 ≤ idx.toNat ∧ t = s.acceptFault .wrsym .badIdx idx) ∨
    (s.cfgOk = false ∧ idx.toNat < 256 ∧ t = (s.setFwd idx.toNat sym).acceptOk .wrsym) := by
  simp only [execWrsym, fwdIndexOk, decide_eq_true_eq] at h
  split at h
  · exact .inl ⟨‹_›, (Host.Outcome.next.inj h).symm⟩
  · rename_i hc
    split at h
    · exact .inr (.inr ⟨by simpa using hc, ‹_›, (Host.Outcome.next.inj h).symm⟩)
    · exact .inr (.inl ⟨by simpa using hc, by omega, (Host.Outcome.next.inj h).symm⟩)

theorem execCfg_cases {n : Idx} {s t : State} (h : execCfg n s = .next t) :
    (s.cfgOk = true ∧ t = s.acceptFault .cfg .locked 0) ∨
    (s.cfgOk = false ∧ t = (({ s with len := n }).clearRev.acceptOk .cfg).startRun .cfgRun) := by
  simp only [execCfg] at h
  split at h
  · exact .inl ⟨‹_›, (Host.Outcome.next.inj h).symm⟩
  · rename_i hc
    exact .inr ⟨by simpa using hc, (Host.Outcome.next.inj h).symm⟩

theorem execEnc_cases {v : Value} {s t : State} (h : execEnc v s = .next t) :
    (s.cfgOk = false ∧ t = s.acceptFault .enc .noCfg 0) ∨
    (s.cfgOk = true ∧ t = (({ s with acc := zextAcc v }).clearResults.acceptOk .enc).startRun .encRun) := by
  simp only [execEnc] at h
  split at h
  · exact .inr ⟨‹_›, (Host.Outcome.next.inj h).symm⟩
  · rename_i hc
    exact .inl ⟨by simpa using hc, (Host.Outcome.next.inj h).symm⟩

theorem execWrin_cases {idx : Idx} {sym : Sym} {s t : State} (h : execWrin idx sym s = .next t) :
    (32 ≤ idx.toNat ∧ t = s.acceptFault .wrin .badIdx idx) ∨
    (idx.toNat < 32 ∧ t = (s.setIbuf idx.toNat sym).acceptOk .wrin) := by
  simp only [execWrin, ibufIndexOk, decide_eq_true_eq] at h
  split at h
  · exact .inr ⟨‹_›, (Host.Outcome.next.inj h).symm⟩
  · exact .inl ⟨by omega, (Host.Outcome.next.inj h).symm⟩

theorem execDec_cases {len : Idx} {s t : State} (h : execDec len s = .next t) :
    (s.cfgOk = false ∧ t = s.acceptFault .dec .noCfg 0) ∨
    (s.cfgOk = true ∧ t = (({ s with len := len, acc := 0 }).clearResults.acceptOk .dec).startRun .decRun) := by
  simp only [execDec] at h
  split at h
  · exact .inr ⟨‹_›, (Host.Outcome.next.inj h).symm⟩
  · rename_i hc
    exact .inl ⟨by simpa using hc, (Host.Outcome.next.inj h).symm⟩

theorem cfgScan_cases {s t : State} (h : cfgScan s = .next t) :
    (∃ i, s.revAt (s.fwdAt s.cnt.toNat) = some i ∧ t = s.clearRev.complete .alphaDup (zextIdx s.cnt)) ∨
    (s.revAt (s.fwdAt s.cnt.toNat) = none ∧ t = (s.setRev (s.fwdAt s.cnt.toNat) (low8 s.cnt)).countStep) := by
  simp only [cfgScan] at h
  split at h
  · exact .inl ⟨_, ‹_›, (Host.Outcome.next.inj h).symm⟩
  · exact .inr ⟨‹_›, (Host.Outcome.next.inj h).symm⟩

theorem cfgRunStep_cases {s t : State} (h : cfgRunStep s = .next t) :
    (s.cnt = 0 ∧ s.len.toNat < 16 ∧ t = s.complete .alphaFew s.len) ∨
    (s.cnt = 0 ∧ 256 < s.len.toNat ∧ t = s.complete .alphaMany s.len) ∨
    (16 ≤ s.len.toNat ∧ s.len.toNat ≤ 256 ∧ s.cnt.toNat < s.len.toNat ∧ cfgScan s = .next t) ∨
    (16 ≤ s.len.toNat ∧ s.len.toNat ≤ 256 ∧ s.cnt.toNat = s.len.toNat ∧
      t = (s.lockAlphabet s.len.toNat).complete .ok 0) := by
  simp only [cfgRunStep] at h
  split at h
  · rename_i h1
    exact .inl ⟨h1.1, h1.2, (Host.Outcome.next.inj h).symm⟩
  · split at h
    · rename_i h1
      exact .inr (.inl ⟨h1.1, h1.2, (Host.Outcome.next.inj h).symm⟩)
    · split at h
      · cases h
      · split at h
        · exact .inr (.inr (.inl ⟨by omega, by omega, ‹_›, h⟩))
        · split at h
          · exact .inr (.inr (.inr ⟨by omega, by omega, ‹_›, (Host.Outcome.next.inj h).symm⟩))
          · cases h

theorem encRunStep_cases {s t : State} (h : encRunStep s = .next t) :
    (s.cnt.toNat < s.w.toNat ∧ s.b ≠ 0 ∧ s.acc.toNat % s.b.toNat < 256 ∧ s.w.toNat - 1 - s.cnt.toNat < 32 ∧
      t = ({ s.setObuf (s.w.toNat - 1 - s.cnt.toNat) (s.fwdAt (s.acc.toNat % s.b.toNat)) with
             acc := BitVec.ofNat 136 (s.acc.toNat / s.b.toNat) }).countStep) ∨
    (s.cnt.toNat = s.w.toNat ∧ s.acc ≠ 0 ∧ t = s.complete .encLen 0) ∨
    (s.cnt.toNat = s.w.toNat ∧ s.acc = 0 ∧ t = s.setObufV.complete .ok 0) := by
  simp only [encRunStep] at h
  split at h
  · rename_i hlt
    simp only [encDigit] at h
    split at h
    · cases h
    · split at h
      · cases h
      · exact .inl ⟨hlt, ‹_›, by omega, by omega, (Host.Outcome.next.inj h).symm⟩
  · split at h
    · rename_i heq
      simp only [encFinish] at h
      split at h
      · exact .inr (.inl ⟨heq, ‹_›, (Host.Outcome.next.inj h).symm⟩)
      · rename_i ha
        exact .inr (.inr ⟨heq, by simpa using ha, (Host.Outcome.next.inj h).symm⟩)
    · cases h

theorem decRunStep_cases {s t : State} (h : decRunStep s = .next t) :
    (s.cnt = 0 ∧ s.len.toNat ≠ s.w.toNat ∧ t = s.complete .decLen s.len) ∨
    (s.len.toNat = s.w.toNat ∧ s.cnt.toNat < s.w.toNat ∧ s.cnt.toNat < 32 ∧
      s.revAt (s.ibufAt s.cnt.toNat) = none ∧ t = s.complete .decChar (zextIdx s.cnt)) ∨
    (s.len.toNat = s.w.toNat ∧ s.cnt.toNat < s.w.toNat ∧ s.cnt.toNat < 32 ∧
      ∃ d, s.revAt (s.ibufAt s.cnt.toNat) = some d ∧ s.acc.toNat * s.b.toNat + d.toNat < 2 ^ 136 ∧
        t = ({ s with acc := BitVec.ofNat 136 (s.acc.toNat * s.b.toNat + d.toNat) }).countStep) ∨
    (s.len.toNat = s.w.toNat ∧ s.cnt.toNat = s.w.toNat ∧ s.acc.extractLsb' 128 8 ≠ 0 ∧ t = s.complete .decRange 0) ∨
    (s.len.toNat = s.w.toNat ∧ s.cnt.toNat = s.w.toNat ∧ s.acc.extractLsb' 128 8 = 0 ∧
      t = s.setResV.complete .ok 0) := by
  simp only [decRunStep] at h
  split at h
  · rename_i h1
    exact .inl ⟨h1.1, h1.2, (Host.Outcome.next.inj h).symm⟩
  · split at h
    · cases h
    · rename_i hlen
      have hlen : s.len.toNat = s.w.toNat := by omega
      split at h
      · rename_i hlt
        simp only [decDigit] at h
        split at h
        · cases h
        · rename_i h32
          split at h
          · exact .inr (.inl ⟨hlen, hlt, by omega, ‹_›, (Host.Outcome.next.inj h).symm⟩)
          · rename_i d hd
            split at h
            · cases h
            · rename_i hv
              exact .inr (.inr (.inl ⟨hlen, hlt, by omega, d, hd, Nat.lt_of_not_le hv,
                (Host.Outcome.next.inj h).symm⟩))
      · split at h
        · rename_i heq
          simp only [decFinish] at h
          split at h
          · exact .inr (.inr (.inr (.inl ⟨hlen, heq, ‹_›, (Host.Outcome.next.inj h).symm⟩)))
          · rename_i ha
            exact .inr (.inr (.inr (.inr ⟨hlen, heq, by simpa using ha, (Host.Outcome.next.inj h).symm⟩)))
        · cases h

/-- The `ACC[135:128]` test is the test of R129 on the number: ACC is 2^128 or more. -/
theorem acc_high_ne_zero_iff (a : AccWord) : a.extractLsb' 128 8 ≠ 0 ↔ 2 ^ 128 ≤ a.toNat := by
  have ha := a.isLt
  rw [ne_eq, ← BitVec.toNat_inj]
  have h0 : (0 : BitVec 8).toNat = 0 := rfl
  simp only [BitVec.extractLsb'_toNat, Nat.shiftRight_eq_div_pow, h0]
  omega

/-- Every case of a step: the core alone, the `reset` input, a beat accepted, a ready block with no beat, a busy
block. -/
theorem step_cases {s t : State} (h : step s = .next t) :
    (s.inputs = [] ∧ runStep s = .next t) ∨
    (∃ p rest, s.inputs = p :: rest ∧ p.reset = true ∧ t = ({ s with inputs := rest }).toReset) ∨
    (∃ p rest, s.inputs = p :: rest ∧ p.reset = false ∧ s.phase = .idle ∧ p.cmdValid = true ∧
      exec (decode p.cmd) { s with inputs := rest } = .next t) ∨
    (∃ p rest, s.inputs = p :: rest ∧ p.reset = false ∧ s.phase = .idle ∧ p.cmdValid = false ∧
      t = { s with inputs := rest }) ∨
    (∃ p rest, s.inputs = p :: rest ∧ p.reset = false ∧ s.phase ≠ .idle ∧
      runStep { s with inputs := inputsAfterBusy p rest } = .next t) := by
  simp only [step] at h
  split at h
  · exact .inl ⟨‹_›, h⟩
  · rename_i p rest hin
    simp only [stepWith] at h
    split at h
    · exact .inr (.inl ⟨p, rest, hin, ‹_›, (Host.Outcome.next.inj h).symm⟩)
    · rename_i hr
      have hr : p.reset = false := by simpa using hr
      split at h
      · rename_i hp
        split at h
        · exact .inr (.inr (.inl ⟨p, rest, hin, hr, hp, ‹_›, h⟩))
        · rename_i hv
          exact .inr (.inr (.inr (.inl ⟨p, rest, hin, hr, hp, by simpa using hv, (Host.Outcome.next.inj h).symm⟩)))
      · exact .inr (.inr (.inr (.inr ⟨p, rest, hin, hr, ‹_›, h⟩)))

/-- `andThen` answers a next state when both parts do. -/
theorem andThen_eq_next {r : Result} {f : State → Result} {t : State} :
    andThen r f = .next t ↔ ∃ u, r = .next u ∧ f u = .next t := by
  cases r <;> simp [andThen]

end Sys2Proof.Machine
end

