-- ==== Sys2Proof/Laws/Driver.lean ====
section
/-! SUPPORT. What the host drivers do on a ready block, said once: the first step accepts the beat, and then the host waits. -/

namespace Sys2Proof.Machine

/-- No command's accept step changes what the host will drive. -/
theorem exec_inputs {i : Instr} {s t : State} (h : exec i s = .next t) : t.inputs = s.inputs := by
  cases i
  case wrsym idx sym => obtain ⟨_, rfl⟩ | ⟨_, _, rfl⟩ | ⟨_, _, rfl⟩ := execWrsym_cases h <;> rfl
  case wrin idx sym => obtain ⟨_, rfl⟩ | ⟨_, rfl⟩ := execWrin_cases h <;> rfl
  case cfg n => obtain ⟨_, rfl⟩ | ⟨_, rfl⟩ := execCfg_cases h <;> rfl
  case enc v => obtain ⟨_, rfl⟩ | ⟨_, rfl⟩ := execEnc_cases h <;> rfl
  case dec n => obtain ⟨_, rfl⟩ | ⟨_, rfl⟩ := execDec_cases h <;> rfl
  all_goals (cases h; rfl)

theorem waitReady_of_idle {n : Nat} {s : State} (h : s.phase = .idle) : waitReady n s = .next s := by
  cases n with
  | zero => rfl
  | succ n => simp only [waitReady, if_pos h]

theorem waitAccepted_of_quiet {n : Nat} {s : State} (h : s.inputs = []) : waitAccepted n s = .next s := by
  cases n with
  | zero => rfl
  | succ n => simp only [waitAccepted, if_pos h]

/-- A step of a ready block that is offered a beat is the accept step of the beat's command (R81). -/
theorem step_offer {c : Beat} {s : State} (h : s.phase = .idle) :
    step { s with inputs := [PortIn.offer c] } = exec (decode c) { s with inputs := [] } := by
  simp [step, stepWith, PortIn.offer, h]

/-- On a ready block a beat is accepted at once. -/
theorem issue_of_idle {c : Beat} {s : State} (h : s.phase = .idle) :
    issue c s = andThen (exec (decode c) { s with inputs := [] }) (waitReady 300) := by
  rw [issue, waitAccepted, if_neg (List.cons_ne_nil _ _), step_offer h]
  cases he : exec (decode c) { s with inputs := [] } with
  | next t => simp only [andThen, waitAccepted_of_quiet (exec_inputs he)]
  | fault f => rfl
  | refused f => rfl

end Sys2Proof.Machine
end

