-- ==== Sys2Proof/Laws/Operands.lean ====
section
/-! SUPPORT. What the width search answers, and place values. -/

namespace Sys2Proof.Machine

/-- The width search answers the least exponent from w on that reaches 2^128, if the fuel reaches one. -/
theorem leastWidthFrom_spec (b : Nat) : ∀ fuel w, 2 ^ 128 ≤ b ^ (w + fuel) →
    2 ^ 128 ≤ b ^ leastWidthFrom b fuel w ∧ w ≤ leastWidthFrom b fuel w ∧ leastWidthFrom b fuel w ≤ w + fuel ∧
      ∀ v, w ≤ v → v < leastWidthFrom b fuel w → b ^ v < 2 ^ 128
  | 0, w, h => ⟨h, Nat.le_refl w, Nat.le_refl w, fun v h1 h2 => by simp only [leastWidthFrom] at h2; omega⟩
  | fuel + 1, w, h => by
    simp only [leastWidthFrom]
    split
    · exact ⟨‹_›, Nat.le_refl w, by omega, fun v h1 h2 => by omega⟩
    · rename_i hw
      obtain ⟨h1, h2, h3, h4⟩ := leastWidthFrom_spec b fuel (w + 1) (by rwa [show w + 1 + fuel = w + (fuel + 1) by omega])
      refine ⟨h1, by omega, by omega, fun v hv hlt => ?_⟩
      rcases Nat.eq_or_lt_of_le hv with rfl | hv
      · omega
      · exact h4 v hv hlt

@[simp] theorem placeValue_nil (b : Nat) : placeValue b [] = 0 := rfl

theorem placeValue_cons (b d : Nat) (ds : List Nat) : placeValue b (d :: ds) = d * b ^ ds.length + placeValue b ds := rfl

/-- One more digit on the right: the value times b, plus the digit (the Horner step of R128). -/
theorem placeValue_append_digit (b : Nat) (ds : List Nat) (d : Nat) :
    placeValue b (ds ++ [d]) = placeValue b ds * b + d := by
  induction ds with
  | nil => simp [placeValue]
  | cons e ds ih =>
    simp only [List.cons_append, placeValue_cons, ih, List.length_append, List.length_singleton, Nat.pow_succ]
    ring

/-- A string of digits below b has a value below b to the power of its length. -/
theorem placeValue_lt (b : Nat) : ∀ ds : List Nat, (∀ d ∈ ds, d < b) → placeValue b ds < b ^ ds.length
  | [], _ => by simp
  | d :: ds, h => by
    have h1 := placeValue_lt b ds fun e he => h e (List.mem_cons_of_mem _ he)
    have h2 : d < b := h d List.mem_cons_self
    have h3 : (d + 1) * b ^ ds.length ≤ b * b ^ ds.length := Nat.mul_le_mul_right _ h2
    simp only [placeValue_cons, List.length_cons, Nat.pow_succ]
    have h4 : (d + 1) * b ^ ds.length = d * b ^ ds.length + b ^ ds.length := by ring
    have h5 : b * b ^ ds.length = b ^ ds.length * b := Nat.mul_comm _ _
    omega

end Sys2Proof.Machine
end

