-- ==== Sys2Proof/Laws/PerInstr.lean ====
section
/-! SUPPORT. Statements made per constructor of Instr. -/

namespace Sys2Proof.Laws.Encoding

/-- The decoder reads a command's canonical beat as that command. -/
def Statement (i : Instr) : Prop := decode (encode i) = i

theorem nop : Statement .nop := decode_packBeat _ _ _

theorem wrsym (idx : Idx) (sym : Sym) : Statement (.wrsym idx sym) := by
  rw [Statement, encode, decode_packBeat, setWidth_symData]
  rfl

theorem cfg (n : Idx) : Statement (.cfg n) := decode_packBeat _ _ _

theorem enc (value : Value) : Statement (.enc value) := decode_packBeat _ _ _

theorem wrin (idx : Idx) (sym : Sym) : Statement (.wrin idx sym) := by
  rw [Statement, encode, decode_packBeat, setWidth_symData]
  rfl

theorem dec (len : Idx) : Statement (.dec len) := decode_packBeat _ _ _

theorem ill6 : Statement .ill6 := decode_packBeat _ _ _

theorem ill7 : Statement .ill7 := decode_packBeat _ _ _

theorem ill8 : Statement .ill8 := decode_packBeat _ _ _

theorem ill9 : Statement .ill9 := decode_packBeat _ _ _

theorem illA : Statement .illA := decode_packBeat _ _ _

theorem illB : Statement .illB := decode_packBeat _ _ _

theorem illC : Statement .illC := decode_packBeat _ _ _

theorem illD : Statement .illD := decode_packBeat _ _ _

theorem illE : Statement .illE := decode_packBeat _ _ _

theorem rst : Statement .rst := decode_packBeat _ _ _

end Sys2Proof.Laws.Encoding
end

