-- ==== Sys2Proof/Tests/Slice0.lean ====
section
/-! SUPPORT. Small tests of single steps, with their expected results from spec/ (the vector or rule is named at each),
and for every statement with hypotheses a concrete state and operands that meet them. -/

namespace Sys2Proof.Tests

set_option Elab.async false

open Sys2Proof.Machine

/-! ## Helpers -/

/-- The next state satisfies p. -/
def answers (r : Result) (p : State → Bool) : Bool :=
  match r with
  | .next t => p t
  | .fault _ => false
  | .refused _ => false

/-- The code i at the index i, for i below n. -/
def codes (n : Nat) : Memory := (List.range n).map fun i => (i, BitVec.ofNat 8 i)

/-- Unconfigured, the codes 0..15 written to FWD. -/
def loaded : State := { State.reset with fwd := codes 16 }

/-- As `loaded`, but entry 9 holds the code of entry 3. -/
def loadedTwice : State := { State.reset with fwd := (codes 16).write 9 3 }

/-- Configured with radix n, digit i being the code i. -/
def configuredWith (n : Nat) : State :=
  { State.reset with fwd := codes n, rev := codes n, b := BitVec.ofNat 9 n, w := BitVec.ofNat 6 (width n), cfgOk := true,
                     opk := .cfg, cnt := BitVec.ofNat 9 n, len := BitVec.ofNat 16 n }

/-- Configured with radix 16. -/
def configured : State := configuredWith 16

/-- A CFG 16 that has scanned three symbols. -/
def scanning : State := { loaded with rev := codes 3, phase := .cfgRun, opk := .cfg, cnt := 3, len := 16 }

/-- A CFG that has just been accepted on `loaded`. -/
def scanStart (n : Idx) : State := { loaded with phase := .cfgRun, opk := .cfg, len := n }

/-- An ENC of 0x2A that has just been accepted on `configured`. -/
def encoding : State := { configured with phase := .encRun, opk := .enc, cnt := 0, acc := 0x2A }

/-- Configured with radix 256, with an encode result that can be read: symbol j at position j. -/
def encoded : State := { configuredWith 256 with opk := .enc, obuf := codes 16, obufV := true }

/-- A DEC 32 that has just been accepted on `configured`. -/
def decoding : State := { configured with phase := .decRun, opk := .dec, cnt := 0, len := 32, ibuf := [(0, 7)] }

/-- A decode result that can be read. -/
def decoded : State := { configured with opk := .dec, acc := 5, resV := true, cnt := 32, len := 32 }

theorem read?_append_last (m : Memory) (k : Nat) (v : BitVec 8) (a : Nat) :
    Memory.read? (m ++ [(k, v)]) a = (m.read? a).orElse fun _ => if k = a then some v else none := by
  induction m with
  | nil => rfl
  | cons c m ih =>
    obtain ⟨l, x⟩ := c
    simp only [List.cons_append, Memory.read?_cons]
    split
    · rfl
    · exact ih

theorem read?_codes (n a : Nat) : (codes n).read? a = if a < n then some (BitVec.ofNat 8 a) else none := by
  induction n with
  | zero => rfl
  | succ n ih =>
    have h : codes (n + 1) = codes n ++ [(n, BitVec.ofNat 8 n)] := by simp [codes, List.range_succ]
    rw [h, read?_append_last, ih]
    by_cases h1 : a < n
    · simp [h1, show a < n + 1 by omega]
    · by_cases h2 : n = a
      · subst h2; simp
      · simp [h1, h2, show ¬a < n + 1 by omega]

theorem wf_codes (n : Nat) : Memory.wf (codes n) := by
  simp only [Memory.wf, codes, List.pairwise_map]
  exact List.pairwise_lt_range

theorem within_codes {n k : Nat} (h : n ≤ k) : Memory.within (codes n) k := by
  intro c hc
  simp only [codes, List.mem_map, List.mem_range] at hc
  obtain ⟨i, hi, rfl⟩ := hc
  exact Nat.lt_of_lt_of_le hi h

/-- With the code i at index i on both sides, REV is the inverse of FWD. -/
theorem inverse_codes {s : State} {n m : Nat} (hf : s.fwd = codes n) (hr : s.rev = codes m) (hm : m ≤ n) :
    s.InverseUpTo m := by
  intro sym i
  simp only [State.revAt, State.fwdAt, hf, hr, read?_codes]
  constructor
  · intro h
    split at h
    · rename_i hlt
      have hi : i = sym := by
        rw [← Option.some.inj h]; simp
      subst hi
      exact ⟨hlt, by simp [show i.toNat < n by omega]⟩
    · cases h
  · rintro ⟨h1, h2⟩
    rw [if_pos (by omega : i.toNat < n)] at h2
    have hi : i = sym := by simpa using h2
    subst hi
    simp [h1]

theorem tablesOk_of {s : State} (h1 : s.fwd.wf) (h2 : s.fwd.within 256) (h3 : s.rev.wf) (h4 : s.rev.within 256)
    (h5 : s.ibuf.wf) (h6 : s.ibuf.within 32) (h7 : s.obuf.wf) (h8 : s.obuf.within 32) : s.TablesOk :=
  ⟨h1, h3, h5, h7, h2, h4, h6, h8⟩

/-- A ready, unconfigured block with no result is in the invariant when its tables are in form. -/
theorem inv_unconfigured {s : State} (ht : s.TablesOk) (hc : s.cfgOk = false) (hb : s.b = 0) (hw : s.w = 0)
    (hr : s.rev = []) (hp : s.phase = .idle) (hv : s.resV = false) (ho : s.obufV = false) (hn : s.cnt = 0)
    (he : s.err = .ok) : Inv s where
  tables := ht
  unconfigured _ := ⟨hb, hw⟩
  configured h := by simp [hc] at h
  revEmpty _ _ := hr
  cfgRunning h := by simp [hp] at h
  encRunning h := by simp [hp] at h
  decRunning h := by simp [hp] at h
  running h := absurd hp h
  decoded h := by simp [hv] at h
  encoded h := by simp [ho] at h
  oneResult := by simp [hv]
  cntRange := by simp [hn]
  errCode := by simp [he]

theorem loaded_inv : Inv loaded :=
  inv_unconfigured (tablesOk_of (wf_codes 16) (within_codes (by decide)) (by decide) (by decide) (by decide) (by decide)
    (by decide) (by decide)) rfl rfl rfl rfl rfl rfl rfl rfl rfl

theorem loadedTwice_inv : Inv loadedTwice :=
  inv_unconfigured (tablesOk_of (by decide) (by decide) (by decide) (by decide) (by decide) (by decide) (by decide)
    (by decide)) rfl rfl rfl rfl rfl rfl rfl rfl rfl

/-- A configured block over the codes 0..n-1 with no encode result is in the invariant, ready or at the start of an ENC
or a DEC. -/
theorem inv_configured {s : State} {n : Nat} (h16 : 16 ≤ n) (h256 : n ≤ 256) (hwn : 2 ^ 128 ≤ n ^ width n)
    (hw32 : width n ≤ 32) (hf : s.fwd = codes n) (hr : s.rev = codes n) (hi : s.ibuf.wf) (hi' : s.ibuf.within 32)
    (ho : s.obuf = []) (hb : s.b = BitVec.ofNat 9 n) (hw : s.w = BitVec.ofNat 6 (width n)) (hc : s.cfgOk = true)
    (hov : s.obufV = false) (hac : s.acc.toNat < 2 ^ 128) (hn : s.cnt.toNat ≤ 256) (he : s.err = .ok) (hei : s.errInfo = 0)
    (hrun : s.phase ≠ .idle → s.resV = false ∧ s.cnt = 0) (hp : s.phase ≠ .cfgRun) (henc : s.phase = .encRun → s.opk = .enc)
    (hdec : s.phase = .decRun → s.opk = .dec ∧ s.acc = 0) : Inv s := by
  have hbn : s.b.toNat = n := by rw [hb, BitVec.toNat_ofNat]; omega
  have hwn' : s.w.toNat = width n := by rw [hw, BitVec.toNat_ofNat]; omega
  refine
    { tables := tablesOk_of (hf ▸ wf_codes n) (hf ▸ within_codes h256) (hr ▸ wf_codes n) (hr ▸ within_codes h256) hi hi'
        (ho ▸ List.Pairwise.nil) (by simp [ho])
      unconfigured := fun h => by simp [hc] at h
      configured := fun _ => ⟨by omega, by omega, by rw [hwn', hbn], hbn ▸ inverse_codes hf hr (Nat.le_refl n)⟩
      revEmpty := fun h => by simp [hc] at h
      cfgRunning := fun h => absurd h hp
      encRunning := fun h => ?_
      decRunning := fun h => ?_
      running := fun h => ⟨he, hei, (hrun h).1, hov⟩
      decoded := fun _ => ⟨hc, hac⟩
      encoded := fun h => by simp [hov] at h
      oneResult := by simp [hov]
      cntRange := hn
      errCode := by simp [he] }
  · have h0 := (hrun (by simp [h])).2
    refine ⟨hc, henc h, by simp [h0], ?_, fun j h4 h5 => ?_⟩
    · rw [h0, hbn, hwn']; exact Nat.lt_of_lt_of_le hac hwn
    · rw [h0] at h4; simp at h4; omega
  · have h0 := (hrun (by simp [h])).2
    exact ⟨hc, (hdec h).1, by simp [h0], by simp [h0], by simp [h0, (hdec h).2]⟩

theorem configuredWith_16_inv : Inv (configuredWith 16) :=
  inv_configured (n := 16) (by decide) (by decide) (by decide) (by decide) rfl rfl (by decide) (by decide) rfl rfl rfl rfl rfl
    (by decide) (by decide) rfl rfl (by decide) (by decide) (by decide) (by decide)

theorem configuredWith_17_inv : Inv (configuredWith 17) :=
  inv_configured (n := 17) (by decide) (by decide) (by decide) (by decide) rfl rfl (by decide) (by decide) rfl rfl rfl rfl rfl
    (by decide) (by decide) rfl rfl (by decide) (by decide) (by decide) (by decide)

theorem configuredWith_57_inv : Inv (configuredWith 57) :=
  inv_configured (n := 57) (by decide) (by decide) (by decide) (by decide) rfl rfl (by decide) (by decide) rfl rfl rfl rfl rfl
    (by decide) (by decide) rfl rfl (by decide) (by decide) (by decide) (by decide)

theorem configuredWith_256_inv : Inv (configuredWith 256) :=
  inv_configured (n := 256) (by decide) (by decide) (by decide) (by decide) rfl rfl (by decide) (by decide) rfl rfl rfl rfl rfl
    (by decide) (by decide) rfl rfl (by decide) (by decide) (by decide) (by decide)

theorem encoded_inv : Inv encoded :=
  { configuredWith_256_inv with
    tables := { configuredWith_256_inv.tables with obufWf := wf_codes 16, obufWithin := within_codes (by decide) }
    cfgRunning := nofun
    encRunning := nofun
    decRunning := nofun
    running := fun h => absurd rfl h
    encoded := fun _ => ⟨rfl, fun j hj => ⟨j, by
      have h16 : j < 16 := hj
      refine ⟨Nat.lt_trans h16 (by decide), ?_⟩
      simp only [State.obufAt, State.fwdAt, show encoded.obuf = codes 16 from rfl, show encoded.fwd = codes 256 from rfl,
        read?_codes, if_pos h16, if_pos (Nat.lt_trans h16 (by decide : 16 < 256)),
        Option.getD_some]⟩⟩
    oneResult := fun h => nomatch h.1 }

theorem decoded_inv : Inv decoded :=
  inv_configured (n := 16) (by decide) (by decide) (by decide) (by decide) rfl rfl (by decide) (by decide) rfl rfl rfl rfl rfl
    (by decide) (by decide) rfl rfl (by decide) (by decide) (by decide) (by decide)

theorem encoding_inv : Inv encoding :=
  inv_configured (n := 16) (by decide) (by decide) (by decide) (by decide) rfl rfl (by decide) (by decide) rfl rfl rfl rfl rfl
    (by decide) (by decide) rfl rfl (by decide) (by decide) (by decide) (by decide)

theorem decoding_inv : Inv decoding :=
  inv_configured (n := 16) (by decide) (by decide) (by decide) (by decide) rfl rfl (by decide) (by decide) rfl rfl rfl rfl rfl
    (by decide) (by decide) rfl rfl (by decide) (by decide) (by decide) (by decide)

/-- As `decoding`, but the symbol at position 0 has no index. -/
theorem decodingBad_inv : Inv { decoding with ibuf := [(0, 16)] } :=
  inv_configured (n := 16) (by decide) (by decide) (by decide) (by decide) rfl rfl (by decide) (by decide) rfl rfl rfl rfl rfl
    (by decide) (by decide) rfl rfl (by decide) (by decide) (by decide) (by decide)

theorem scanning_inv : Inv scanning where
  tables := tablesOk_of (wf_codes 16) (within_codes (by decide)) (wf_codes 3) (within_codes (by decide)) (by decide) (by decide)
    (by decide) (by decide)
  unconfigured _ := ⟨rfl, rfl⟩
  configured h := by simp [scanning, loaded, State.reset] at h
  revEmpty _ h := by simp [scanning] at h
  cfgRunning _ := ⟨rfl, rfl, inverse_codes (n := 16) rfl rfl (by decide), .inr (by decide)⟩
  encRunning h := by simp [scanning] at h
  decRunning h := by simp [scanning] at h
  running _ := ⟨rfl, rfl, rfl, rfl⟩
  decoded h := by simp [scanning, loaded, State.reset] at h
  encoded h := by simp [scanning, loaded, State.reset] at h
  oneResult := by decide
  cntRange := by decide
  errCode := by decide

/-! ## Well-formed commands: each check refuses an ill-formed term (R71) -/

theorem test_wellFormed_wrsym_bound :
    Instr.wellFormed (.wrsym 255 0) = true ∧ Instr.wellFormed (.wrsym 256 0) = false := by decide
theorem test_wellFormed_wrin_bound :
    Instr.wellFormed (.wrin 31 0) = true ∧ Instr.wellFormed (.wrin 32 0) = false := by decide
theorem test_wellFormed_refuses_reserved :
    ([.ill6, .ill7, .ill8, .ill9, .illA, .illB, .illC, .illD, .illE] : List Instr).all (fun i => !i.wellFormed) = true := by
  decide
theorem test_canonicalBeat_refuses_unused_bits :
    canonicalBeat 0x1000300000000000000000000000000000078 = true ∧
    canonicalBeat 0x1000300000000000000000000000000000178 = false := by decide
theorem test_codeMap_refuses_shared_code :
    codeMapInjective [(['a'], 1), (['b'], 2)] ∧ ¬codeMapInjective [(['a'], 1), (['b'], 1)] := by decide

/-! ## Words of the spec, bit by bit (`30_encoding.md` R71, R78; `95_test_vectors.md` 2.4) -/

theorem test_decode_nop : decode 0x0000000000000000000000000000000000000 = .nop := by decide
theorem test_decode_nop_unused : decode 0x0ffffffffffffffffffffffffffffffffffff = .nop := by decide
theorem test_decode_wrsym : decode 0x1000000000000000000000000000000000032 = .wrsym 0 0x32 := by decide
theorem test_decode_wrsym_high : decode 0x100ffffffffffffffffffffffffffffffff41 = .wrsym 255 0x41 := by decide
theorem test_decode_cfg : decode 0x2003900000000000000000000000000000000 = .cfg 57 := by decide
theorem test_decode_enc :
    decode 0x300002a162ee502f447019e8772762cbce5e2 = .enc 0x2a162ee502f447019e8772762cbce5e2 := by decide
theorem test_decode_enc_idx_ignored :
    decode 0x3abcd2a162ee502f447019e8772762cbce5e2 = .enc 0x2a162ee502f447019e8772762cbce5e2 := by decide
theorem test_decode_wrin : decode 0x400150000000000000000000000000000006b = .wrin 21 0x6b := by decide
theorem test_decode_dec : decode 0x5001600000000000000000000000000000000 = .dec 22 := by decide
theorem test_decode_ill6 : decode 0x6000000000000000000000000000000000000 = .ill6 := by decide
theorem test_decode_ill7 : decode 0x7000000000000000000000000000000000000 = .ill7 := by decide
theorem test_decode_ill8 : decode 0x8000000000000000000000000000000000000 = .ill8 := by decide
theorem test_decode_ill9 : decode 0x9000000000000000000000000000000000000 = .ill9 := by decide
theorem test_decode_illA : decode 0xA000000000000000000000000000000000000 = .illA := by decide
theorem test_decode_illB : decode 0xB000000000000000000000000000000000000 = .illB := by decide
theorem test_decode_illC : decode 0xC000000000000000000000000000000000000 = .illC := by decide
theorem test_decode_illD : decode 0xD000000000000000000000000000000000000 = .illD := by decide
theorem test_decode_illE : decode 0xE123400000000000000000000000000000000 = .illE := by decide
theorem test_decode_rst : decode 0xF000000000000000000000000000000000000 = .rst := by decide
theorem test_encode_words :
    encode (.wrsym 0 0x32) = 0x1000000000000000000000000000000000032 ∧
    encode (.dec 22) = 0x5001600000000000000000000000000000000 ∧
    encode (.enc 0x2a162ee502f447019e8772762cbce5e2) = 0x300002a162ee502f447019e8772762cbce5e2 := by decide
theorem test_decodeTableWord_rejects_bit_148 : decodeTableWord 152 (2 ^ 148) = none := by decide

/-! ## Accept steps -/

/-- V-SYS-1. -/
theorem test_nop_on_reset :
    answers (exec .nop State.reset) (fun t => decide (t = { State.reset with opk := .nop }) && t.done) = true := by decide
/-- V-SYS-3, V-SYS-4. -/
theorem test_reserved_opcodes :
    ([(.ill6, 6), (.ill7, 7), (.ill8, 8), (.ill9, 9), (.illA, 10), (.illB, 11), (.illC, 12), (.illD, 13), (.illE, 14)] :
      List (Instr × Idx)).all (fun p => answers (exec p.1 decoded) fun t =>
        decide (t = { decoded with opk := .ill, err := .illCmd, errInfo := p.2 })) = true := by decide
/-- V-SYS-5, V-SYS-6. -/
theorem test_rst_then_enc :
    answers (andThen (exec .rst decoded) (exec (.enc 1))) (fun t =>
      decide (t.err = .noCfg ∧ t.opk = .enc ∧ t.b = 0 ∧ t.w = 0 ∧ t.resV = false)) = true := by decide
/-- R91 on the last entry. -/
theorem test_wrsym_255 :
    answers (exec (.wrsym 255 0x78) loaded) (fun t =>
      decide (t.fwdAt 255 = 0x78 ∧ t.fwdAt 15 = 15 ∧ t.err = .ok ∧ t.errInfo = 0)) = true := by decide
/-- V-CFG-13 to V-CFG-15: `E_LOCKED` before `E_BADIDX`. -/
theorem test_wrsym_faults :
    answers (exec (.wrsym 256 0x78) loaded) (fun t => decide (t.err = .badIdx ∧ t.errInfo = 256)) = true ∧
    answers (exec (.wrsym 256 0x78) configured) (fun t => decide (t.err = .locked ∧ t.errInfo = 256)) = true := by decide
/-- R92. -/
theorem test_cfg_accept :
    answers (exec (.cfg 16) loaded) (fun t => decide (t.phase = .cfgRun ∧ t.len = 16 ∧ t.cnt = 0) && !t.cmdReady) = true := by
  decide
/-- V-CFG-12. -/
theorem test_cfg_locked :
    answers (exec (.cfg 16) configured) (fun t => decide (t = { configured with opk := .cfg, err := .locked })) = true := by
  decide
/-- V-ENC-14: an accepted ENC ends a decode result. -/
theorem test_enc_accept :
    answers (exec (.enc 0xFFFFFFFFFFFFFFFFFFFFFFFFFFFFFFFF) decoded) (fun t =>
      decide (t.acc = 0xFFFFFFFFFFFFFFFFFFFFFFFFFFFFFFFF ∧ t.phase = .encRun ∧ t.resV = false ∧ t.cnt = 0)) = true := by decide
/-- V-ENC-13. -/
theorem test_enc_unconfigured :
    answers (exec (.enc 1) State.reset) (fun t => decide (t = { State.reset with opk := .enc, err := .noCfg })) = true := by
  decide
/-- R125 on the last entry. -/
theorem test_wrin_31 :
    answers (exec (.wrin 31 0x61) decoding) (fun t =>
      decide (t.ibufAt 31 = 0x61 ∧ t.ibufAt 0 = 7 ∧ t.err = .ok)) = true := by decide
/-- V-DEC-23. -/
theorem test_wrin_32 :
    answers (exec (.wrin 32 0x61) decoded) (fun t =>
      decide (t = { decoded with opk := .wrin, err := .badIdx, errInfo := 32 })) = true := by decide
/-- R126: the flags are cleared at accept. -/
theorem test_dec_accept :
    answers (exec (.dec 31) decoded) (fun t =>
      decide (t.phase = .decRun ∧ t.len = 31 ∧ t.acc = 0 ∧ t.resV = false)) = true := by decide
/-- V-DEC-22. -/
theorem test_dec_unconfigured :
    answers (exec (.dec 22) State.reset) (fun t => decide (t = { State.reset with opk := .dec, err := .noCfg })) = true := by
  decide

/-! ## Run steps and the port -/

/-- V-CFG-3, V-CFG-6. -/
theorem test_cfg_counts :
    answers (step (scanStart 15)) (fun t => decide (t.err = .alphaFew ∧ t.errInfo = 15 ∧ t.phase = .idle)) = true ∧
    answers (step (scanStart 257)) (fun t => decide (t.err = .alphaMany ∧ t.errInfo = 257 ∧ t.phase = .idle)) = true := by
  decide
/-- V-CFG-8: the later index is reported and REV is empty. -/
theorem test_cfg_duplicate :
    answers (step { scanning with fwd := loadedTwice.fwd, rev := codes 9, cnt := 9 }) (fun t =>
      decide (t.err = .alphaDup ∧ t.errInfo = 9 ∧ t.rev = [] ∧ t.cfgOk = false ∧ t.phase = .idle)) = true := by decide
/-- V-CFG-2: the finish step. -/
theorem test_cfg_finish :
    answers (step { scanning with rev := codes 16, cnt := 16 }) (fun t =>
      decide (t.cfgOk = true ∧ t.b = 16 ∧ t.w = 32 ∧ t.err = .ok) && t.done) = true := by decide
/-- R120 at radix 16: the first remainder of 0x2A is 0xA, stored last. -/
theorem test_enc_digit :
    answers (step encoding) (fun t =>
      decide (t.obuf = [(31, 10)] ∧ t.acc = 2 ∧ t.cnt = 1 ∧ t.phase = .encRun)) = true := by decide
/-- R112, both arms. -/
theorem test_enc_finish :
    answers (step { encoding with cnt := 32, acc := 0 }) (fun t => decide (t.obufV = true ∧ t.err = .ok)) = true ∧
    answers (step { encoding with cnt := 32, acc := 1 }) (fun t => decide (t.obufV = false ∧ t.err = .encLen)) = true := by
  decide
/-- R127: V-DEC-21. -/
theorem test_dec_length :
    answers (step { decoding with len := 31 }) (fun t => decide (t.err = .decLen ∧ t.errInfo = 31)) = true := by decide
/-- R139's second Horner step, 7*57 + 27 = 426, at radix 16: 7*16 + 7. -/
theorem test_dec_digit :
    answers (step { decoding with cnt := 1, acc := 7, ibuf := [(0, 7), (1, 7)] }) (fun t =>
      decide (t.acc = 119 ∧ t.cnt = 2)) = true := by decide
/-- R128: V-DEC-20's shape, a symbol of no index. -/
theorem test_dec_bad_symbol :
    answers (step { decoding with cnt := 1, ibuf := [(0, 7), (1, 16)] }) (fun t =>
      decide (t.err = .decChar ∧ t.errInfo = 1 ∧ t.resV = false)) = true := by decide
/-- R129 at the boundary. -/
theorem test_dec_range :
    answers (step { decoding with cnt := 32, acc := 0x100000000000000000000000000000000 }) (fun t => decide (t.err = .decRange) && t.decodedValue.isNone) =
      true ∧
    answers (step { decoding with cnt := 32, acc := 0xFFFFFFFFFFFFFFFFFFFFFFFFFFFFFFFF }) (fun t =>
      decide (t.err = .ok ∧ t.decodedValue = some 0xFFFFFFFFFFFFFFFFFFFFFFFFFFFFFFFF)) = true := by decide
/-- V-SYS-7: a beat offered to a busy block has no effect; a host that holds it offers it again. -/
theorem test_busy_holds_beat :
    answers (step { encoding with inputs := [PortIn.offer (encode .rst)] }) (fun t =>
      decide (t.phase = .encRun ∧ t.cnt = 1 ∧ t.inputs = [PortIn.offer (encode .rst)])) = true := by decide
/-- R79, R81: a driver's beat is held until the running ENC has completed, and is then accepted. -/
theorem test_issue_on_busy_block :
    answers (issue (encode (.wrin 0 7)) { encoding with cnt := 32, acc := 0 }) (fun t =>
      decide (t.opk = .wrin ∧ t.ibufAt 0 = 7 ∧ t.obufV = true ∧ t.phase = .idle ∧ t.inputs = [])) = true := by decide +kernel
/-- V-SYS-8: `reset` while a DEC runs. -/
theorem test_reset_while_busy :
    answers (step { decoding with inputs := [PortIn.resetPulse] }) (fun t =>
      decide (t.phase = .idle ∧ t.opk = .none ∧ t.cfgOk = false) && !t.done) = true := by decide
/-- A placed command is run by the next step. -/
theorem test_withFetchWord :
    answers (step (State.reset.withFetchWord 152 0x1000000000000000000000000000000000032)) (fun t =>
      decide (t.fwdAt 0 = 0x32 ∧ t.opk = .wrsym ∧ t.inputs = [])) = true := by decide
/-- 95_test_vectors.md, width function spot checks. -/
theorem test_width_spot_checks :
    [16, 17, 18, 26, 27, 32, 56, 57, 58, 68, 69, 84, 85, 184, 185, 255, 256].map width =
      [32, 32, 31, 28, 27, 26, 23, 22, 22, 22, 21, 21, 20, 18, 17, 17, 16] := by decide +kernel

/-! ## Host side -/

/-- V-HOST-1, V-HOST-3: both shapes give the operand of S1. -/
theorem test_normalize_shapes :
    (normalizeUuid (['2', 'a', '1', '6', '2', 'e', 'e', '5', '-', '0', '2', 'f', '4', '-', '4', '7', '0', '1', '-', '9', 'e',
      '8', '7', '-', '7', '2', '7', '6', '2', 'c', 'b', 'c', 'e', '5', 'e', '2'])).map hexValue =
      some 0x2a162ee502f447019e8772762cbce5e2 ∧
    (normalizeUuid (leftBrace :: ['2', 'A', '1', '6', '2', 'E', 'E', '5', '-', '0', '2', 'F', '4', '-', '4', '7', '0', '1', '-', '9',
      'E', '8', '7', '-', '7', '2', '7', '6', '2', 'C', 'B', 'C', 'E', '5', 'E', '2', rightBrace])).map hexValue =
      some 0x2a162ee502f447019e8772762cbce5e2 := by decide +kernel
/-- V-HOST-5, V-HOST-8: a wrong length, and one brace. -/
theorem test_normalize_rejects :
    normalizeUuid (List.replicate 31 '0') = none ∧ normalizeUuid (leftBrace :: List.replicate 32 '0') = none := by decide +kernel
/-- V-HOST-13: leading zeros are kept. -/
theorem test_format_uuid :
    formatUuid 0x00112233445566778899aabbccddeeff =
      ['0', '0', '1', '1', '2', '2', '3', '3', '-', '4', '4', '5', '5', '-', '6', '6', '7', '7', '-', '8', '8', '9', '9', '-',
       'a', 'a', 'b', 'b', 'c', 'c', 'd', 'd', 'e', 'e', 'f', 'f'] := by decide +kernel
/-- R157: an input that is no string, among them a raw 16-byte binary. -/
theorem test_normalize_rejects_no_string :
    normalizeUuidInput .notString = none ∧ normalizeUuidInput (.binary (List.replicate 16 0)) = none := by decide
/-- V-HOST-14's causes and R166's fragments. -/
theorem test_messages :
    (decodeError .decLen).message = "invalid length" ∧ (decodeError .decChar).message = "invalid character" ∧
    (decodeError .decRange).message = "out of range" ∧ (encodeError .encLen).message = "incorrect length" ∧
    (alphabetError .alphaFew).message = "too few symbols" ∧ (alphabetError .alphaMany).message = "too many symbols" ∧
    (alphabetError .alphaDup).message = "duplicate symbol" := by decide
/-- base57 has 57 distinct symbols (R172). -/
theorem test_base57 : base57.length = 57 ∧ base57.Nodup := by decide +kernel
/-- R78's examples. -/
theorem test_assemble :
    assemble ['W', 'R', 'S', 'Y', 'M', ' ', '0', ',', ' ', '\'', '2', '\''] = some (.wrsym 0 0x32) ∧
    assemble ['D', 'E', 'C', ' ', '2', '2'] = some (.dec 22) ∧
    assemble ['E', 'N', 'C', ' ', '0', 'x', '2', 'a', '1', '6'] = some (.enc 0x2a16) := by decide +kernel
/-- R70's written form. -/
theorem test_parseBeat :
    parseBeat (['5', ' ', '0', '0', '1', '6', ' '] ++ List.replicate 32 '0') = some (encode (.dec 22)) := by decide +kernel

/-! ## Witnesses: for each statement with hypotheses, a state and operands that meet them, clause by clause -/

/-- A step answers a next state with p. -/
abbrev stepsTo (s : State) (p : State → Bool) : Prop := answers (step s) p = true

theorem next_of_answers {r : Result} {p : State → Bool} (h : answers r p = true) : ∃ t, r = .next t ∧ p t = true := by
  cases r with
  | next t => exact ⟨t, rfl, h⟩
  | fault f => cases h
  | refused x => cases h

/-- EveryStepKeepsTheInvariant, InvariantStatesNeverStop, EveryRunPhaseEnds, AcceptTimeFaultsWriteStatusOnly (second
clause). -/
theorem witness_running :
    Inv encoding ∧ encoding.NoReset ∧ encoding.phase ≠ .idle ∧ (∃ t, step encoding = .next t ∧ true = true) ∧
    Inv scanning ∧ scanning.phase = .cfgRun ∧ (∃ t, step scanning = .next t ∧ true = true) ∧
    Inv decoding ∧ decoding.phase = .decRun ∧ ∃ t, step decoding = .next t ∧ true = true :=
  ⟨encoding_inv, by decide, by decide, next_of_answers (p := fun _ => true) (by decide), scanning_inv, rfl,
    next_of_answers (p := fun _ => true) (by decide), decoding_inv, rfl, next_of_answers (p := fun _ => true) (by decide)⟩

/-- AlphabetIsLockedUntilReset: a step that keeps the alphabet, and a step that resets. -/
theorem witness_AlphabetIsLockedUntilReset :
    Inv configured ∧ configured.cfgOk = true ∧ (∃ t, step configured = .next t ∧ t.cfgOk = true) ∧
    ∃ t, step { configured with inputs := [PortIn.offer (encode .rst)] } = .next t ∧ (!t.cfgOk) = true :=
  ⟨configuredWith_16_inv, rfl, next_of_answers (p := fun t => t.cfgOk) (by decide),
    next_of_answers (p := fun t => !t.cfgOk) (by decide)⟩

/-- FlagsChangeOnlyAsTheSummarySays: each flag rising and falling. -/
theorem witness_FlagsChangeOnlyAsTheSummarySays :
    stepsTo { scanning with rev := codes 16, cnt := 16 } (fun t => t.cfgOk) ∧ scanning.cfgOk = false ∧
    stepsTo { configured with inputs := [PortIn.resetPulse] } (fun t => !t.cfgOk) ∧ configured.cfgOk = true ∧
    stepsTo { decoding with cnt := 32 } (fun t => t.resV) ∧ decoding.resV = false ∧
    stepsTo { encoding with cnt := 32, acc := 0 } (fun t => t.obufV) ∧ encoding.obufV = false ∧
    stepsTo { decoded with inputs := [PortIn.offer (encode (.enc 0))] } (fun t => !t.resV) ∧ decoded.resV = true ∧
    stepsTo { configured with obufV := true, inputs := [PortIn.offer (encode (.dec 0))] } (fun t => !t.obufV) ∧
    stepsTo scanning (fun t => (t.revAt 3).isSome) ∧ scanning.revAt 3 = none ∧
    stepsTo { scanning with fwd := loadedTwice.fwd, rev := codes 9, cnt := 9 } (fun t => (t.revAt 0).isNone) ∧
    ({ scanning with rev := codes 9 } : State).revAt 0 ≠ none := by decide

/-- TableEntriesChangeOnlyByTheirCommand, at the last index of each table. -/
theorem witness_TableEntriesChangeOnlyByTheirCommand :
    stepsTo { State.reset with fwd := [(255, 1)], inputs := [PortIn.offer (encode (.wrsym 255 2))] }
      (fun t => decide (t.fwdAt 255 ≠ 1)) ∧
    stepsTo { State.reset with ibuf := [(31, 1)], inputs := [PortIn.offer (encode (.wrin 31 2))] }
      (fun t => decide (t.ibufAt 31 ≠ 1)) ∧
    ¬({ State.reset with fwd := [(255, 1)], inputs := [PortIn.offer (encode (.wrsym 255 2))] } : State).Resets ∧
    ¬({ State.reset with ibuf := [(31, 1)], inputs := [PortIn.offer (encode (.wrin 31 2))] } : State).Resets := by
  refine ⟨by decide, by decide, ?_, ?_⟩ <;> rintro (⟨p, r, h, hr⟩ | ⟨p, r, h, -, -, -, hd⟩) <;> cases h
  · exact absurd hr (by decide)
  · exact absurd hd (by decide)
  · exact absurd hr (by decide)
  · exact absurd hd (by decide)

/-- DecodeFollowsTheOpcodeMap: a beat for each of the sixteen clauses. -/
theorem witness_DecodeFollowsTheOpcodeMap :
    (List.range 16).all (fun k => decide ((BitVec.ofNat 148 (k * 2 ^ 144 + 7)).toNat / 2 ^ 144 = k)) = true := by
  decide +kernel

/-- OpkPortNumbersTheLastCommand (third clause): a step that accepts no command, of a busy block with a beat on offer. -/
theorem witness_OpkPortNumbersTheLastCommand :
    stepsTo { encoding with inputs := [PortIn.offer (encode .rst)] } (fun t => decide ((t.ports 0).opk = 4)) ∧
    ¬({ encoding with inputs := [PortIn.offer (encode .rst)] } : State).Resets ∧
    ∀ i, ¬({ encoding with inputs := [PortIn.offer (encode .rst)] } : State).Accepts i := by
  have ha : ∀ i, ¬({ encoding with inputs := [PortIn.offer (encode .rst)] } : State).Accepts i := by
    rintro i ⟨p, r, -, -, hp, -⟩
    exact absurd hp (by decide)
  refine ⟨by decide +kernel, ?_, ha⟩
  rintro (⟨p, r, h, hr⟩ | h)
  · cases h; exact absurd hr (by decide)
  · exact ha _ h

/-- ErrPortNumbersTheErrorCodes, PortsShowWhatCanBeRead: a decode result and an encode result that can be read. -/
theorem witness_PortsShowWhatCanBeRead :
    Inv decoded ∧ decoded.resV = true ∧ decoded.phase = .idle ∧ (decoded.ports 0).res = 5 ∧
    Inv encoded ∧ encoded.obufV = true ∧ encoded.phase = .idle ∧ (encoded.ports 0).obuf[15]? = some 15 ∧
    decoded.err = .ok :=
  ⟨decoded_inv, rfl, rfl, by decide +kernel, encoded_inv, rfl, rfl, by decide +kernel, rfl⟩

/-- UnusedFieldsAreIgnored: the opcodes at the ends of each clause, and two data fields alike in the low 8 bits. -/
theorem witness_UnusedFieldsAreIgnored :
    6 ≤ (6 : BitVec 4).toNat ∧ 6 ≤ (15 : BitVec 4).toNat ∧
    (0x178 : Value).toNat % 2 ^ 8 = (0x78 : Value).toNat % 2 ^ 8 ∧ (0x178 : Value) ≠ 0x78 := by decide

/-- StepRunsTheDecodedCommand, both clauses, the greatest word. -/
theorem witness_StepRunsTheDecodedCommand :
    State.reset.phase = .idle ∧ (PortIn.offer (encode .nop)).reset = false ∧ (PortIn.offer (encode .nop)).cmdValid = true ∧
    2 ^ 148 - 1 < 2 ^ 148 ∧ 148 ≤ 148 := by decide

/-- BusyBlockAcceptsNoBeat, RstGivesTheResetState (third clause): a busy block that steps, and one for which no rule
applies. -/
theorem witness_BusyBlockAcceptsNoBeat :
    encoding.phase ≠ .idle ∧ (∃ t, step { encoding with inputs := [] } = .next t ∧ true = true) ∧
    step { encoding with cnt := 33, inputs := [] } = .fault .noRuleApplies :=
  ⟨by decide, next_of_answers (p := fun _ => true) (by decide), rfl⟩

/-- ReadyBlockWithoutABeatKeepsItsState, ResetInputBeatsEverything: a beat offered in the step of a reset. -/
theorem witness_ports :
    configured.phase = .idle ∧ configured.inputs = [] ∧ PortIn.quiet.reset = false ∧ PortIn.quiet.cmdValid = false ∧
    PortIn.resetPulse.reset = true ∧ ({ PortIn.offer (encode .nop) with reset := true } : PortIn).reset = true := by decide

/-- The statements on a ready block of the invariant, configured and not: CompletionShowsDone (also of the busy blocks of
`witness_running`), the three one-function readings, CfgReportsTheFirstCause, EncWritesTheNumeral, EncodingIsFixedWidthAndInjective, EncodeAndDecodeAreInverse,
DecodeStringReportsTheFirstError, BuildAlphabetOutcome. -/
theorem witness_ready :
    Inv loaded ∧ loaded.ReadyQuiet ∧ loaded.cfgOk = false ∧ Inv (configuredWith 16) ∧ (configuredWith 16).ReadyQuiet ∧
    (configuredWith 16).cfgOk = true :=
  ⟨loaded_inv, by decide, rfl, configuredWith_16_inv, by decide, rfl⟩

/-- ReservedOpcodesReportIllegalCommand: the first and the last reserved opcode. -/
theorem witness_ReservedOpcodesReportIllegalCommand :
    6 ≤ (6 : BitVec 4).toNat ∧ (6 : BitVec 4).toNat ≤ 14 ∧ 6 ≤ (14 : BitVec 4).toNat ∧ (14 : BitVec 4).toNat ≤ 14 := by decide

/-- WrsymWritesOneForwardEntry, WrinWritesOneInputEntry, CfgStartsTheScan, EncLoadsTheValue, DecStartsTheAccumulator: the
indexes at each bound, a block of each configuration state, and a data field that holds the symbol 0x78. -/
theorem witness_accept_clauses :
    (255 : Idx).toNat < 256 ∧ 256 ≤ (256 : Idx).toNat ∧ (31 : Idx).toNat < 32 ∧ 32 ≤ (32 : Idx).toNat ∧
    loaded.cfgOk = false ∧ configured.cfgOk = true ∧ (0x178 : Value).toNat % 2 ^ 8 = (0x78 : Sym).toNat := by decide

/-- AcceptTimeFaultsWriteStatusOnly, OnlyIllFormedCommandsReportBadIndexOrOpcode: a command for each of the four codes. -/
theorem witness_accept_faults :
    answers (exec (.enc 0) loaded) (fun t => decide (t.err = .noCfg)) = true ∧
    answers (exec (.cfg 16) configured) (fun t => decide (t.err = .locked)) = true ∧
    answers (exec (.wrin 32 0) loaded) (fun t => decide (t.err = .badIdx)) = true ∧
    answers (exec .illE loaded) (fun t => decide (t.err = .illCmd)) = true ∧
    Instr.wellFormed (.wrin 32 0) = false ∧ Instr.wellFormed (.wrin 31 0) = true := by decide

/-- ResultsSurviveOtherCommands: WRIN on a block with a result. -/
theorem witness_ResultsSurviveOtherCommands :
    Inv decoded ∧ decoded.phase = .idle ∧ decoded.resV = true ∧ (∃ t, exec (.wrin 31 0) decoded = .next t ∧ true = true) :=
  ⟨decoded_inv, rfl, rfl, next_of_answers (p := fun _ => true) (by decide)⟩

/-- CfgChecksTheCount, CfgScansOneSymbol, CfgFinishLocksTheAlphabet: counts at each bound. -/
theorem witness_cfg_steps :
    (scanStart 15).phase = .cfgRun ∧ (scanStart 15).inputs = [] ∧ (scanStart 15).cnt = 0 ∧ (scanStart 15).len.toNat < 16 ∧
    256 < (scanStart 257).len.toNat ∧ 16 ≤ (scanStart 16).len.toNat ∧ (scanStart 256).len.toNat ≤ 256 ∧
    (scanStart 16).cnt.toNat < (scanStart 16).len.toNat ∧ (scanStart 16).revAt ((scanStart 16).fwdAt 0) = none ∧
    ({ scanning with fwd := loadedTwice.fwd, rev := codes 9, cnt := 9 } : State).revAt (loadedTwice.fwdAt 9) ≠ none ∧
    ({ scanning with cnt := 16 } : State).cnt.toNat = scanning.len.toNat ∧
    ({ scanning with cnt := 256, len := 256 } : State).cnt.toNat = ({ scanning with len := 256 } : State).len.toNat := by decide

/-- EncDividesByTheRadix, EncFinishChecksTheQuotient. -/
theorem witness_enc_steps :
    Inv encoding ∧ encoding.phase = .encRun ∧ encoding.inputs = [] ∧ encoding.cnt.toNat < encoding.w.toNat ∧
    ({ encoding with cnt := 32, acc := 0 } : State).cnt.toNat = encoding.w.toNat ∧ encoding.acc ≠ 0 :=
  ⟨encoding_inv, rfl, rfl, by decide, by decide, by decide⟩

/-- DecChecksTheLengthFirst, DecMultipliesAndAdds, DecFinishChecksTheRange. -/
theorem witness_dec_steps :
    ({ decoding with len := 31 } : State).len.toNat ≠ decoding.w.toNat ∧ decoding.cnt = 0 ∧
    Inv decoding ∧ decoding.phase = .decRun ∧ decoding.inputs = [] ∧ decoding.len.toNat = decoding.w.toNat ∧
    decoding.cnt.toNat < decoding.w.toNat ∧ decoding.revAt (decoding.ibufAt decoding.cnt.toNat) = some 7 ∧
    Inv { decoding with ibuf := [(0, 16)] } ∧ decoding.revAt (({ decoding with ibuf := [(0, 16)] } : State).ibufAt 0) = none ∧
    ({ decoding with cnt := 32 } : State).cnt.toNat = decoding.w.toNat ∧
    2 ^ 128 ≤ (0x100000000000000000000000000000000 : AccWord).toNat ∧
    (0xFFFFFFFFFFFFFFFFFFFFFFFFFFFFFFFF : AccWord).toNat < 2 ^ 128 :=
  ⟨by decide, rfl, decoding_inv, rfl, rfl, by decide, by decide, by decide, decodingBad_inv, by decide, by decide, by decide,
    by decide⟩

/-- CfgReportsTheFirstCause: a count for each clause, distinct symbols and a repeated one. -/
theorem witness_CfgReportsTheFirstCause :
    Inv loaded ∧ Inv loadedTwice ∧ loadedTwice.ReadyQuiet ∧ loadedTwice.cfgOk = false ∧
    (15 : Idx).toNat < 16 ∧ 256 < (257 : Idx).toNat ∧ 16 ≤ (16 : Idx).toNat ∧ (256 : Idx).toNat ≤ 256 ∧
    loadedTwice.fwdAt 9 = loadedTwice.fwdAt 3 ∧
    (∀ i j, j < i → i < (16 : Idx).toNat → loaded.fwdAt i ≠ loaded.fwdAt j) := by
  refine ⟨loaded_inv, loadedTwice_inv, by decide, rfl, by decide, by decide, by decide, by decide, by decide, ?_⟩
  have h : ∀ i : Fin 16, ∀ j : Fin 16, j.val < i.val → loaded.fwdAt i.val ≠ loaded.fwdAt j.val := by decide +kernel
  intro i j h1 h2
  have h2 : i < 16 := h2
  exact h ⟨i, h2⟩ ⟨j, by omega⟩ h1

/-- EncCornerCases, OnlyTwoRadicesAcceptEveryString: the radices 16, 17, 57 and 256, and a value for each clause. -/
theorem witness_radices :
    Inv (configuredWith 17) ∧ (configuredWith 17).ReadyQuiet ∧ (configuredWith 17).b.toNat = 17 ∧
    Inv (configuredWith 57) ∧ (configuredWith 57).ReadyQuiet ∧ (configuredWith 57).b.toNat = 57 ∧
    Inv (configuredWith 256) ∧ (configuredWith 256).ReadyQuiet ∧ (configuredWith 256).b.toNat = 256 ∧
    (configuredWith 16).b.toNat = 16 ∧ (15 : Value).toNat = (configuredWith 16).b.toNat - 1 ∧
    (0xFFFFFFFFFFFFFFFFFFFFFFFFFFFFFFFF : Value).toNat = 2 ^ 128 - 1 ∧
    (∀ c ∈ List.replicate 32 (15 : Sym), (configuredWith 16).revAt c ≠ none) ∧
    (List.replicate 32 (15 : Sym)).length = (configuredWith 16).w.toNat :=
  ⟨configuredWith_17_inv, by decide, by decide, configuredWith_57_inv, by decide, by decide, configuredWith_256_inv,
    by decide +kernel⟩

/-- EncodingIsFixedWidthAndInjective: the codes rise with the index. -/
theorem witness_codes_rise :
    ∀ i j, i < j → j < (configuredWith 16).b.toNat →
      ((configuredWith 16).fwdAt i).toNat < ((configuredWith 16).fwdAt j).toNat := by
  have h : ∀ i : Fin 16, ∀ j : Fin 16, i.val < j.val →
      ((configuredWith 16).fwdAt i.val).toNat < ((configuredWith 16).fwdAt j.val).toNat := by decide +kernel
  intro i j h1 h2
  have h2 : j < 16 := h2
  exact h ⟨i, by omega⟩ ⟨j, h2⟩ h1

/-- EncodeAndDecodeAreInverse, second clause: a string that decodes. -/
theorem witness_EncodeAndDecodeAreInverse :
    ∃ t, decodeString (List.replicate 16 0) (configuredWith 256) = some (.ok 0, t) := by
  have h : (match decodeString (List.replicate 16 0) (configuredWith 256) with
      | some (.ok v, _) => decide (v = 0)
      | some (.error _, _) => false
      | none => false) = true := by decide +kernel
  revert h
  cases decodeString (List.replicate 16 0) (configuredWith 256) with
  | none => intro h; cases h
  | some p =>
    obtain ⟨a, t⟩ := p
    cases a with
    | error e => intro h; cases h
    | ok v => intro h; exact ⟨t, by rw [of_decide_eq_true h]⟩

/-- DecodeStringReportsTheFirstError: a length, a bad symbol, a value out of range and one in range, at radix 17. -/
theorem witness_DecodeStringReportsTheFirstError :
    (List.replicate 31 (0 : Sym)).length ≠ (configuredWith 17).w.toNat ∧
    (List.replicate 32 (17 : Sym)).length = (configuredWith 17).w.toNat ∧ (configuredWith 17).revAt 17 = none ∧
    (List.replicate 32 (16 : Sym)).mapM (configuredWith 17).revAt = some (List.replicate 32 16) ∧
    2 ^ 128 ≤ placeValue 17 ((List.replicate 32 (16 : BitVec 8)).map BitVec.toNat) ∧
    placeValue 17 ((List.replicate 32 (0 : BitVec 8)).map BitVec.toNat) < 2 ^ 128 := by decide +kernel

/-- ErrorsLeaveTheAlphabet: a DEC that runs and fails on a configured block, and a reserved opcode. -/
theorem witness_ErrorsLeaveTheAlphabet :
    Inv configured ∧ configured.ReadyQuiet ∧
    (∃ t, issue (encode (.dec 31)) configured = .next t ∧ decide (t.err ≠ .ok) = true) ∧
    ∃ t, issue (encode .ill6) configured = .next t ∧ decide (t.err ≠ .ok) = true :=
  ⟨configuredWith_16_inv, by decide, next_of_answers (p := fun t => decide (t.err ≠ .ok)) (by decide +kernel),
    next_of_answers (p := fun t => decide (t.err ≠ .ok)) (by decide +kernel)⟩

/-- WidthIsTheLeastExponent, at both ends. -/
theorem witness_WidthIsTheLeastExponent : 16 ≤ 16 ∧ 16 ≤ 256 ∧ 256 ≤ 256 := by decide

/-- BuildAlphabetOutcome: a symbol list for each clause. -/
theorem witness_BuildAlphabetOutcome :
    (List.replicate 15 (0 : Sym)).length < 16 ∧ 256 < (List.replicate 257 (0 : Sym)).length ∧
    16 ≤ (List.replicate 16 (0 : Sym)).length ∧ ¬(List.replicate 16 (0 : Sym)).Nodup ∧
    ((List.range 256).map (BitVec.ofNat 8)).length ≤ 256 ∧ ((List.range 256).map (BitVec.ofNat 8)).Nodup := by decide +kernel

/-- A code mapping for the symbols of `configuredWith 16`: the letters from A on. -/
def letters : CodeMap := (List.range 16).map fun i => ([Char.ofNat (65 + i)], BitVec.ofNat 8 i)

/-- UuidRoundTrip, CanonicalFormReadsBack (second clause). -/
theorem witness_UuidRoundTrip :
    Inv (configuredWith 16) ∧ (configuredWith 16).ReadyQuiet ∧ (configuredWith 16).cfgOk = true ∧ codeMapInjective letters ∧
    (∀ d, d < (configuredWith 16).b.toNat → ∃ g, (g, (configuredWith 16).fwdAt d) ∈ letters) ∧
    normalizeUuid (List.replicate 32 'A') = some (List.replicate 32 'A') ∧
    normalizeUuid (List.replicate 32 'a') = some (List.replicate 32 'a') ∧
    (List.replicate 32 'a').map Char.toLower = (List.replicate 32 'A').map Char.toLower := by
  refine ⟨configuredWith_16_inv, by decide, rfl, by decide +kernel, ?_, by decide +kernel⟩
  intro d hd
  have hd : d < 16 := hd
  refine ⟨[Char.ofNat (65 + d)], ?_⟩
  have h : (configuredWith 16).fwdAt d = BitVec.ofNat 8 d := by
    simp only [State.fwdAt, show (configuredWith 16).fwd = codes 16 from rfl, read?_codes, if_pos hd]; rfl
  rw [h]
  exact List.mem_map.2 ⟨d, List.mem_range.2 hd, rfl⟩

/-- The letters from A on for the codes 0 to 17: one code more than radix 17 has. -/
def moreLetters : CodeMap := (List.range 18).map fun i => ([Char.ofNat (65 + i)], BitVec.ofNat 8 i)

/-- The code mapping has a code for each digit of radix 17. -/
theorem moreLetters_covers : ∀ d, d < (configuredWith 17).b.toNat → ∃ g, (g, (configuredWith 17).fwdAt d) ∈ moreLetters := by
  intro d hd
  have hd : d < 17 := hd
  refine ⟨[Char.ofNat (65 + d)], ?_⟩
  have h : (configuredWith 17).fwdAt d = BitVec.ofNat 8 d := by
    simp only [State.fwdAt, show (configuredWith 17).fwd = codes 17 from rfl, read?_codes, if_pos hd]; rfl
  rw [h]
  exact List.mem_map.2 ⟨d, List.mem_range.2 (by omega), rfl⟩

/-- CallerErrorsCollapse at radix 17: a wrong length, a grapheme with no code, a code with no index, a value out of range
and one in range, and an input that is none of the shapes. -/
theorem witness_CallerErrorsCollapse :
    Inv (configuredWith 17) ∧ (configuredWith 17).ReadyQuiet ∧ (configuredWith 17).cfgOk = true ∧
    codeMapInjective moreLetters ∧ normalizeUuidInput .notString = none ∧
    (List.replicate 31 ['A']).length ≠ (configuredWith 17).w.toNat ∧
    (List.replicate 32 ['A']).length = (configuredWith 17).w.toNat ∧
    codeOf? moreLetters ['~'] = none ∧ (List.replicate 32 ['~']).length = (configuredWith 17).w.toNat ∧
    (List.replicate 32 ['R']).mapM (codeOf? moreLetters) = some (List.replicate 32 17) ∧
    (configuredWith 17).revAt 17 = none ∧
    (List.replicate 32 ['Q']).mapM (codeOf? moreLetters) = some (List.replicate 32 16) ∧
    (List.replicate 32 (16 : Sym)).mapM (configuredWith 17).revAt = some (List.replicate 32 16) ∧
    2 ^ 128 ≤ placeValue 17 ((List.replicate 32 (16 : BitVec 8)).map BitVec.toNat) ∧
    placeValue 17 ((List.replicate 32 (0 : BitVec 8)).map BitVec.toNat) < 2 ^ 128 :=
  ⟨configuredWith_17_inv, by decide +kernel⟩

/-- BuildCodecOutcome: a count on each side, 16 graphemes with distinct codes, and 17 of which two are alike. -/
theorem witness_BuildCodecOutcome :
    Inv loaded ∧ loaded.ReadyQuiet ∧ loaded.cfgOk = false ∧ (List.replicate 15 ['A']).length < 16 ∧
    256 < (List.replicate 257 ['A']).length ∧
    (letters.map Prod.fst).mapM (codeOf? letters) = some ((List.range 16).map (BitVec.ofNat 8)) ∧
    ((List.range 16).map (BitVec.ofNat 8)).Nodup ∧
    (['A'] :: letters.map Prod.fst).mapM (codeOf? letters) = some (0 :: (List.range 16).map (BitVec.ofNat 8)) ∧
    ¬(0 :: (List.range 16).map (BitVec.ofNat 8)).Nodup :=
  ⟨loaded_inv, by decide +kernel⟩

end Sys2Proof.Tests
end

section
/-! PROOFS. What one step can do, as two relations with a named case for each rule: an accept step (`AcceptStep`) and a
step of the core (`RunStep`). A step of the machine is one of them or a reset (`step_agents`). -/

namespace Sys2Proof.Machine

/-- `AcceptStep s i t`: the accept step of the command i takes s to t. -/
inductive AcceptStep (s : State) : Instr → State → Prop
  /-- NOP, a reserved opcode and every accept-time fault write the status registers and nothing else (R145, R185). -/
  | status (i : Instr) (e : ErrCode) (x : Idx) (hi : i ≠ .rst) (he : e ≠ .encRange ∧ e ≠ .encLen) :
      AcceptStep s i (s.report (opKindOf i) e x)
  /-- R91. -/
  | wrsym (idx : Idx) (sym : Sym) (hc : s.cfgOk = false) (hi : idx.toNat < 256) :
      AcceptStep s (.wrsym idx sym) ((s.setFwd idx.toNat sym).acceptOk .wrsym)
  /-- R92. -/
  | cfg (n : Idx) (hc : s.cfgOk = false) :
      AcceptStep s (.cfg n) ((({ s with len := n }).clearRev.acceptOk .cfg).startRun .cfgRun)
  /-- R110. -/
  | enc (v : Value) (hc : s.cfgOk = true) :
      AcceptStep s (.enc v) ((({ s with acc := zextAcc v }).clearResults.acceptOk .enc).startRun .encRun)
  /-- R125. -/
  | wrin (idx : Idx) (sym : Sym) (hi : idx.toNat < 32) :
      AcceptStep s (.wrin idx sym) ((s.setIbuf idx.toNat sym).acceptOk .wrin)
  /-- R126. -/
  | dec (n : Idx) (hc : s.cfgOk = true) :
      AcceptStep s (.dec n) ((({ s with len := n, acc := 0 }).clearResults.acceptOk .dec).startRun .decRun)
  /-- R146. -/
  | rst : AcceptStep s .rst s.toReset

/-- `exec` does what `AcceptStep` lists. -/
theorem AcceptStep.of_exec {i : Instr} {s t : State} (h : exec i s = .next t) : AcceptStep s i t := by
  cases i
  case wrsym idx sym =>
    obtain ⟨-, rfl⟩ | ⟨-, -, rfl⟩ | ⟨hc, hi, rfl⟩ := execWrsym_cases h
    · exact .status _ .locked idx nofun (by decide)
    · exact .status _ .badIdx idx nofun (by decide)
    · exact .wrsym idx sym hc hi
  case cfg n =>
    obtain ⟨-, rfl⟩ | ⟨hc, rfl⟩ := execCfg_cases h
    · exact .status _ .locked 0 nofun (by decide)
    · exact .cfg n hc
  case enc v =>
    obtain ⟨-, rfl⟩ | ⟨hc, rfl⟩ := execEnc_cases h
    · exact .status _ .noCfg 0 nofun (by decide)
    · exact .enc v hc
  case wrin idx sym =>
    obtain ⟨-, rfl⟩ | ⟨hi, rfl⟩ := execWrin_cases h
    · exact .status _ .badIdx idx nofun (by decide)
    · exact .wrin idx sym hi
  case dec n =>
    obtain ⟨-, rfl⟩ | ⟨hc, rfl⟩ := execDec_cases h
    · exact .status _ .noCfg 0 nofun (by decide)
    · exact .dec n hc
  case rst => cases h; exact .rst
  case nop => cases h; exact .status _ .ok 0 nofun (by decide)
  all_goals cases h; exact .status _ .illCmd _ nofun (by decide)

/-- Every accept step answers a next state (R193). -/
theorem exec_answers (i : Instr) (s : State) : ∃ t, exec i s = .next t := by
  cases i
  case wrsym idx sym => simp only [exec, execWrsym]; split_ifs <;> exact ⟨_, rfl⟩
  case cfg n => simp only [exec, execCfg]; split_ifs <;> exact ⟨_, rfl⟩
  case enc v => simp only [exec, execEnc]; split_ifs <;> exact ⟨_, rfl⟩
  case wrin idx sym => simp only [exec, execWrin]; split_ifs <;> exact ⟨_, rfl⟩
  case dec n => simp only [exec, execDec]; split_ifs <;> exact ⟨_, rfl⟩
  all_goals exact ⟨_, rfl⟩

/-- `RunStep s t`: one step of the core, with nothing accepted, takes s to t. -/
inductive RunStep (s : State) : State → Prop
  /-- R199. -/
  | idle (hp : s.phase = .idle) : RunStep s s
  /-- R93. -/
  | cfgFew (hp : s.phase = .cfgRun) (h0 : s.cnt = 0) (hlen : s.len.toNat < 16) :
      RunStep s (s.complete .alphaFew s.len)
  /-- R94. -/
  | cfgMany (hp : s.phase = .cfgRun) (h0 : s.cnt = 0) (hlen : 256 < s.len.toNat) :
      RunStep s (s.complete .alphaMany s.len)
  /-- R95, a repeated symbol. -/
  | cfgDuplicate (hp : s.phase = .cfgRun) (h16 : 16 ≤ s.len.toNat) (h256 : s.len.toNat ≤ 256)
      (hlt : s.cnt.toNat < s.len.toNat) (i : BitVec 8) (hd : s.revAt (s.fwdAt s.cnt.toNat) = some i) :
      RunStep s (s.clearRev.complete .alphaDup (zextIdx s.cnt))
  /-- R95, a new symbol. -/
  | cfgScan (hp : s.phase = .cfgRun) (h16 : 16 ≤ s.len.toNat) (h256 : s.len.toNat ≤ 256)
      (hlt : s.cnt.toNat < s.len.toNat) (hn : s.revAt (s.fwdAt s.cnt.toNat) = none) :
      RunStep s (s.setRev (s.fwdAt s.cnt.toNat) (low8 s.cnt)).countStep
  /-- R96. -/
  | cfgLock (hp : s.phase = .cfgRun) (h16 : 16 ≤ s.len.toNat) (h256 : s.len.toNat ≤ 256)
      (heq : s.cnt.toNat = s.len.toNat) :
      RunStep s ((s.lockAlphabet s.len.toNat).complete .ok 0)
  /-- R111. -/
  | encDigit (hp : s.phase = .encRun) (hlt : s.cnt.toNat < s.w.toNat) (hb : s.b ≠ 0)
      (hr : s.acc.toNat % s.b.toNat < 256) (hj : s.w.toNat - 1 - s.cnt.toNat < 32) :
      RunStep s ({ s.setObuf (s.w.toNat - 1 - s.cnt.toNat) (s.fwdAt (s.acc.toNat % s.b.toNat)) with
        acc := BitVec.ofNat 136 (s.acc.toNat / s.b.toNat) }).countStep
  /-- R112, a quotient left over. -/
  | encTooLong (hp : s.phase = .encRun) (heq : s.cnt.toNat = s.w.toNat) (ha : s.acc ≠ 0) :
      RunStep s (s.complete .encLen 0)
  /-- R112. -/
  | encDone (hp : s.phase = .encRun) (heq : s.cnt.toNat = s.w.toNat) (ha : s.acc = 0) :
      RunStep s (s.setObufV.complete .ok 0)
  /-- R127. -/
  | decLength (hp : s.phase = .decRun) (h0 : s.cnt = 0) (hlen : s.len.toNat ≠ s.w.toNat) :
      RunStep s (s.complete .decLen s.len)
  /-- R128, a symbol with no index. -/
  | decBadSymbol (hp : s.phase = .decRun) (hlen : s.len.toNat = s.w.toNat) (hlt : s.cnt.toNat < s.w.toNat)
      (hn : s.revAt (s.ibufAt s.cnt.toNat) = none) :
      RunStep s (s.complete .decChar (zextIdx s.cnt))
  /-- R128. -/
  | decDigit (hp : s.phase = .decRun) (hlen : s.len.toNat = s.w.toNat) (hlt : s.cnt.toNat < s.w.toNat) (d : BitVec 8)
      (hd : s.revAt (s.ibufAt s.cnt.toNat) = some d) (hfit : s.acc.toNat * s.b.toNat + d.toNat < 2 ^ 136) :
      RunStep s ({ s with acc := BitVec.ofNat 136 (s.acc.toNat * s.b.toNat + d.toNat) }).countStep
  /-- R129, a value of 2^128 or more. -/
  | decTooLarge (hp : s.phase = .decRun) (hlen : s.len.toNat = s.w.toNat) (heq : s.cnt.toNat = s.w.toNat)
      (ha : 2 ^ 128 ≤ s.acc.toNat) :
      RunStep s (s.complete .decRange 0)
  /-- R129. -/
  | decDone (hp : s.phase = .decRun) (hlen : s.len.toNat = s.w.toNat) (heq : s.cnt.toNat = s.w.toNat)
      (ha : s.acc.toNat < 2 ^ 128) :
      RunStep s (s.setResV.complete .ok 0)

/-- The core does what `RunStep` lists. -/
theorem RunStep.of_runStep {s t : State} (h : runStep s = .next t) : RunStep s t := by
  rw [runStep] at h
  cases hp : s.phase <;> rw [hp] at h
  case idle => cases h; exact .idle hp
  case cfgRun =>
    obtain ⟨h0, hlen, rfl⟩ | ⟨h0, hlen, rfl⟩ | ⟨h16, h256, hlt, hscan⟩ | ⟨h16, h256, heq, rfl⟩ := cfgRunStep_cases h
    · exact .cfgFew hp h0 hlen
    · exact .cfgMany hp h0 hlen
    · obtain ⟨i, hd, rfl⟩ | ⟨hn, rfl⟩ := cfgScan_cases hscan
      · exact .cfgDuplicate hp h16 h256 hlt i hd
      · exact .cfgScan hp h16 h256 hlt hn
    · exact .cfgLock hp h16 h256 heq
  case encRun =>
    obtain ⟨hlt, hb, hr, hj, rfl⟩ | ⟨heq, ha, rfl⟩ | ⟨heq, ha, rfl⟩ := encRunStep_cases h
    · exact .encDigit hp hlt hb hr hj
    · exact .encTooLong hp heq ha
    · exact .encDone hp heq ha
  case decRun =>
    obtain ⟨h0, hlen, rfl⟩ | ⟨hlen, hlt, -, hn, rfl⟩ | ⟨hlen, hlt, -, d, hd, hfit, rfl⟩ | ⟨hlen, heq, ha, rfl⟩ |
      ⟨hlen, heq, ha, rfl⟩ := decRunStep_cases h
    · exact .decLength hp h0 hlen
    · exact .decBadSymbol hp hlen hlt hn
    · exact .decDigit hp hlen hlt d hd hfit
    · exact .decTooLarge hp hlen heq ((acc_high_ne_zero_iff _).1 ha)
    · exact .decDone hp hlen heq (Nat.lt_of_not_le fun hle => (acc_high_ne_zero_iff _).2 hle ha)

/-- The three agents of a step: a reset by the `reset` input, a command accepted on a ready block, or the core alone. What
the host will drive afterwards is some list l. -/
theorem step_agents {s t : State} (h : step s = .next t) :
    ∃ l, (s.Resets ∧ t = ({ s with inputs := l }).toReset) ∨
      (∃ i, s.Accepts i ∧ AcceptStep { s with inputs := l } i t) ∨ RunStep { s with inputs := l } t := by
  obtain ⟨hin, hrun⟩ | ⟨p, rest, hin, hr, rfl⟩ | ⟨p, rest, hin, hr, hp, hv, hex⟩ | ⟨p, rest, -, -, hp, -, rfl⟩ |
    ⟨p, rest, -, -, -, hrun⟩ := step_cases h
  · exact ⟨s.inputs, .inr (.inr (RunStep.of_runStep hrun))⟩
  · exact ⟨rest, .inl ⟨.inl ⟨p, rest, hin, hr⟩, rfl⟩⟩
  · exact ⟨rest, .inr (.inl ⟨decode p.cmd, ⟨p, rest, hin, hr, hp, hv, rfl⟩, AcceptStep.of_exec hex⟩)⟩
  · exact ⟨rest, .inr (.inr (.idle hp))⟩
  · exact ⟨_, .inr (.inr (RunStep.of_runStep hrun))⟩

theorem State.Accepts.phase_idle {s : State} {i : Instr} (h : s.Accepts i) : s.phase = .idle := by
  obtain ⟨p, rest, -, -, hp, -⟩ := h
  exact hp

/-- The value OPK takes in an accept step (R35). -/
theorem AcceptStep.opk {s t : State} {i : Instr} (h : AcceptStep s i t) : t.opk = opKindOf i := by
  cases h <;> rfl

/-- What a step of the core leaves unchanged. -/
theorem RunStep.frame {s t : State} (h : RunStep s t) :
    t.fwd = s.fwd ∧ t.ibuf = s.ibuf ∧ t.opk = s.opk ∧ t.inputs = s.inputs ∧ t.resets = s.resets := by
  cases h <;> exact ⟨rfl, rfl, rfl, rfl, rfl⟩

end Sys2Proof.Machine
end

section
/-! PROOFS. The invariant: it holds at reset, and each agent of a step keeps it. -/

namespace Sys2Proof.Machine

/-! ## The width of a radix from 16 to 256 (R98, R99) -/

theorem width_spec {b : Nat} (h16 : 16 ≤ b) :
    2 ^ 128 ≤ b ^ width b ∧ ∀ v, v < width b → b ^ v < 2 ^ 128 := by
  have hreach : 2 ^ 128 ≤ b ^ (0 + 128) := by
    rw [Nat.zero_add]
    exact Nat.pow_le_pow_left (by omega) 128
  obtain ⟨h1, -, -, h4⟩ := leastWidthFrom_spec b 128 0 hreach
  exact ⟨h1, fun v hv => h4 v (Nat.zero_le v) hv⟩

theorem width_le {b : Nat} (h16 : 16 ≤ b) : width b ≤ 32 := by
  by_contra hw
  have h1 := (width_spec h16).2 32 (by omega)
  have h2 : 16 ^ 32 ≤ b ^ 32 := Nat.pow_le_pow_left h16 32
  omega

theorem pow_width_lt {b : Nat} (h16 : 16 ≤ b) (h256 : b ≤ 256) : b ^ width b < 2 ^ 136 := by
  obtain ⟨hreach, hleast⟩ := width_spec h16
  cases hw : width b with
  | zero => rw [hw, pow_zero] at hreach; omega
  | succ v =>
    calc b ^ (v + 1) = b ^ v * b := pow_succ b v
      _ < 2 ^ 128 * 256 := Nat.mul_lt_mul_of_lt_of_le (hleast v (by omega)) h256 (by decide)
      _ = 2 ^ 136 := by decide

/-! ## The bounds a running command rests on -/

/-- One more Horner step of the decoder stays below the next power of the radix (R131). -/
theorem horner_lt_pow {a b d n : Nat} (ha : a < b ^ n) (hd : d < b) : a * b + d < b ^ (n + 1) := by
  have h : (a + 1) * b ≤ b ^ n * b := Nat.mul_le_mul_right b ha
  rw [Nat.pow_succ]
  linarith

/-- One more division step of the encoder stays below the power before it (R115). -/
theorem div_lt_pow {a b n : Nat} (ha : a < b ^ (n + 1)) : a / b < b ^ n := by
  rw [Nat.pow_succ, Nat.mul_comm] at ha
  exact Nat.div_lt_of_lt_mul ha

theorem toNat_ofNat_of_lt {w n : Nat} (h : n < 2 ^ w) : (BitVec.ofNat w n).toNat = n :=
  (BitVec.toNat_ofNat n w).trans (Nat.mod_eq_of_lt h)

theorem low8_toNat {c : BitVec 9} (h : c.toNat < 256) : (low8 c).toNat = c.toNat := by
  rw [low8, BitVec.toNat_setWidth]
  exact Nat.mod_eq_of_lt h

theorem cnt_succ_toNat {c : BitVec 9} (h : c.toNat ≤ 256) : (c + 1).toNat = c.toNat + 1 := by
  rw [BitVec.toNat_add]
  exact Nat.mod_eq_of_lt (show c.toNat + 1 < 2 ^ 9 by omega)

/-! ## The parts of the invariant under the operations -/

section Parts

variable {s t : State}

theorem State.TablesOk.of_eq (h : s.TablesOk) (hf : t.fwd = s.fwd) (hr : t.rev = s.rev) (hi : t.ibuf = s.ibuf)
    (ho : t.obuf = s.obuf) : t.TablesOk where
  fwdWf := hf ▸ h.fwdWf
  revWf := hr ▸ h.revWf
  ibufWf := hi ▸ h.ibufWf
  obufWf := ho ▸ h.obufWf
  fwdWithin := hf ▸ h.fwdWithin
  revWithin := hr ▸ h.revWithin
  ibufWithin := hi ▸ h.ibufWithin
  obufWithin := ho ▸ h.obufWithin

theorem State.TablesOk.setFwd (h : s.TablesOk) {i : Nat} (hi : i < 256) (c : Sym) : (s.setFwd i c).TablesOk :=
  { h with fwdWf := Memory.wf_write i c h.fwdWf, fwdWithin := Memory.within_write c hi h.fwdWithin }

theorem State.TablesOk.setIbuf (h : s.TablesOk) {j : Nat} (hj : j < 32) (c : Sym) : (s.setIbuf j c).TablesOk :=
  { h with ibufWf := Memory.wf_write j c h.ibufWf, ibufWithin := Memory.within_write c hj h.ibufWithin }

theorem State.TablesOk.setObuf (h : s.TablesOk) {j : Nat} (hj : j < 32) (c : Sym) : (s.setObuf j c).TablesOk :=
  { h with obufWf := Memory.wf_write j c h.obufWf, obufWithin := Memory.within_write c hj h.obufWithin }

theorem State.TablesOk.setRev (h : s.TablesOk) (c : Sym) (i : BitVec 8) : (s.setRev c i).TablesOk :=
  { h with revWf := Memory.wf_write _ i h.revWf, revWithin := Memory.within_write i c.isLt h.revWithin }

theorem State.TablesOk.clearRev (h : s.TablesOk) : s.clearRev.TablesOk :=
  { h with revWf := Memory.wf_nil, revWithin := Memory.within_nil 256 }

/-- The empty map is the inverse of no symbols. -/
theorem State.inverseUpTo_zero (h : s.rev = []) : s.InverseUpTo 0 := by
  intro sym i
  simp [State.revAt, h]

/-- A REV whose every entry is none lists nothing. -/
theorem State.rev_eq_nil (ht : s.TablesOk) (h : s.InverseUpTo 0) : s.rev = [] := by
  refine Memory.eq_of_read? ht.revWf Memory.wf_nil fun a => ?_
  rw [Memory.read?_nil]
  by_cases ha : a < 256
  · have hnone : s.revAt (BitVec.ofNat 8 a) = none :=
      Option.eq_none_iff_forall_ne_some.2 fun i hi => absurd ((h _ i).1 hi).1 (Nat.not_lt_zero _)
    rwa [State.revAt, BitVec.toNat_ofNat, Nat.mod_eq_of_lt ha] at hnone
  · exact Memory.read?_eq_none_of_within ht.revWithin (by omega)

/-- The scan of a new symbol extends the inverse by one (R95). -/
theorem State.inverseUpTo_scan {s : State} (hc : s.cnt.toNat < 256) (h : s.InverseUpTo s.cnt.toNat)
    (hnew : s.revAt (s.fwdAt s.cnt.toNat) = none) :
    (s.setRev (s.fwdAt s.cnt.toNat) (low8 s.cnt)).InverseUpTo (s.cnt.toNat + 1) := by
  intro sym i
  have hfwd : (s.setRev (s.fwdAt s.cnt.toNat) (low8 s.cnt)).fwdAt i.toNat = s.fwdAt i.toNat := rfl
  rw [State.revAt_setRev, hfwd]
  have hi : low8 s.cnt = i ↔ i.toNat = s.cnt.toNat := by
    rw [← BitVec.toNat_inj, low8_toNat hc, eq_comm]
  split
  case isTrue hsym =>
    subst hsym
    rw [Option.some_inj, hi]
    constructor
    · intro heq
      rw [heq]
      exact ⟨Nat.lt_succ_self _, rfl⟩
    · rintro ⟨hlt, hsame⟩
      by_contra hne
      have hold := (h _ i).2 ⟨by omega, hsame⟩
      rw [hnew] at hold
      cases hold
  case isFalse hsym =>
    rw [h sym i]
    constructor
    · exact fun ⟨hlt, hat⟩ => ⟨by omega, hat⟩
    · rintro ⟨hlt, hat⟩
      refine ⟨Nat.lt_of_le_of_ne (Nat.le_of_lt_succ hlt) fun heq => hsym ?_, hat⟩
      rw [← hat, heq]

end Parts

/-! ## States of the invariant -/

namespace Inv

variable {s t : State}

/-- A ready state needs none of the clauses about a running command. -/
theorem of_idle (hp : s.phase = .idle) (tables : s.TablesOk) (unconfigured : s.cfgOk = false → s.b = 0 ∧ s.w = 0)
    (configured : s.cfgOk = true →
      16 ≤ s.b.toNat ∧ s.b.toNat ≤ 256 ∧ s.w.toNat = width s.b.toNat ∧ s.InverseUpTo s.b.toNat)
    (revEmpty : s.cfgOk = false → s.rev = [])
    (decoded : s.resV = true → s.cfgOk = true ∧ s.acc.toNat < 2 ^ 128)
    (encoded : s.obufV = true → s.cfgOk = true ∧ ∀ j, j < s.w.toNat → s.OutputIsSymbol j)
    (oneResult : ¬(s.resV = true ∧ s.obufV = true)) (cntRange : s.cnt.toNat ≤ 256)
    (errCode : s.err ≠ .encRange ∧ s.err ≠ .encLen) : Inv s where
  tables := tables
  unconfigured := unconfigured
  configured := configured
  revEmpty hc _ := revEmpty hc
  cfgRunning h := by rw [hp] at h; cases h
  encRunning h := by rw [hp] at h; cases h
  decRunning h := by rw [hp] at h; cases h
  running h := absurd hp h
  decoded := decoded
  encoded := encoded
  oneResult := oneResult
  cntRange := cntRange
  errCode := errCode

/-- A running command records no error and has no valid result (R36, R38, R39). -/
def Pending (s : State) : Prop := s.err = .ok ∧ s.errInfo = 0 ∧ s.resV = false ∧ s.obufV = false

/-- A busy state needs none of the clauses about results. -/
theorem of_busy (hp : s.phase ≠ .idle) (hrun : Pending s) (tables : s.TablesOk)
    (unconfigured : s.cfgOk = false → s.b = 0 ∧ s.w = 0)
    (configured : s.cfgOk = true →
      16 ≤ s.b.toNat ∧ s.b.toNat ≤ 256 ∧ s.w.toNat = width s.b.toNat ∧ s.InverseUpTo s.b.toNat)
    (cfgRunning : s.phase = .cfgRun → s.cfgOk = false ∧ s.opk = .cfg ∧ s.InverseUpTo s.cnt.toNat ∧
      (s.cnt = 0 ∨ (16 ≤ s.len.toNat ∧ s.len.toNat ≤ 256 ∧ s.cnt.toNat ≤ s.len.toNat)))
    (encRunning : s.phase = .encRun → s.cfgOk = true ∧ s.opk = .enc ∧ s.cnt.toNat ≤ s.w.toNat ∧
      s.acc.toNat < s.b.toNat ^ (s.w.toNat - s.cnt.toNat) ∧
      ∀ j, s.w.toNat - s.cnt.toNat ≤ j → j < s.w.toNat → s.OutputIsSymbol j)
    (decRunning : s.phase = .decRun → s.cfgOk = true ∧ s.opk = .dec ∧ s.cnt.toNat ≤ s.w.toNat ∧
      (s.cnt ≠ 0 → s.len.toNat = s.w.toNat) ∧ s.acc.toNat < s.b.toNat ^ s.cnt.toNat)
    (cntRange : s.cnt.toNat ≤ 256) : Inv s := by
  obtain ⟨herr, hinfo, hres, hobuf⟩ := hrun
  exact
    { tables, unconfigured, configured, cfgRunning, encRunning, decRunning, cntRange
      revEmpty := fun _ h => absurd h hp
      running := fun _ => ⟨herr, hinfo, hres, hobuf⟩
      decoded := by simp [hres]
      encoded := by simp [hobuf]
      oneResult := by simp [hres]
      errCode := by simp [herr] }

/-- The invariant says nothing of what the host will drive. -/
theorem withInputs (h : Inv s) (l : List PortIn) : Inv { s with inputs := l } where
  tables := h.tables.of_eq rfl rfl rfl rfl
  unconfigured := h.unconfigured
  configured := h.configured
  revEmpty := h.revEmpty
  cfgRunning := h.cfgRunning
  encRunning := h.encRunning
  decRunning := h.decRunning
  running := h.running
  decoded := h.decoded
  encoded := h.encoded
  oneResult := h.oneResult
  cntRange := h.cntRange
  errCode := h.errCode

/-- A configured block of the invariant has a width of at most 32, the least that reaches 2^128 (R28, R98). -/
theorem width_bounds (h : Inv s) (hc : s.cfgOk = true) :
    s.w.toNat ≤ 32 ∧ 2 ^ 128 ≤ s.b.toNat ^ s.w.toNat ∧ s.b.toNat ^ s.w.toNat < 2 ^ 136 := by
  obtain ⟨h16, h256, hw, -⟩ := h.configured hc
  rw [hw]
  exact ⟨width_le h16, (width_spec h16).1, pow_width_lt h16 h256⟩

/-- The digit a symbol stands for is below the radix. -/
theorem digit_lt (h : Inv s) (hc : s.cfgOk = true) {sym : Sym} {d : BitVec 8} (hd : s.revAt sym = some d) :
    d.toNat < s.b.toNat := by
  obtain ⟨-, -, -, hinv⟩ := h.configured hc
  exact ((hinv sym d).1 hd).1

/-! ### Reset -/

theorem reset : Inv State.reset :=
  of_idle rfl ⟨.nil, .nil, .nil, .nil, Memory.within_nil _, Memory.within_nil _, Memory.within_nil _, Memory.within_nil _⟩
    (fun _ => ⟨rfl, rfl⟩) (fun hc => Bool.noConfusion hc) (fun _ => rfl) (fun hv => Bool.noConfusion hv)
    (fun hv => Bool.noConfusion hv) (by decide) (by decide) (by decide)

theorem toReset (s : State) : Inv s.toReset :=
  of_idle rfl (reset.tables.of_eq rfl rfl rfl rfl) (fun _ => ⟨rfl, rfl⟩) (fun hc => Bool.noConfusion hc) (fun _ => rfl)
    (fun hv => Bool.noConfusion hv) (fun hv => Bool.noConfusion hv) (by simp) (Nat.zero_le _) (by simp)

/-! ### Accept steps -/

theorem report (h : Inv s) (hp : s.phase = .idle) {e : ErrCode} (he : e ≠ .encRange ∧ e ≠ .encLen) (k : OpKind)
    (x : Idx) : Inv (s.report k e x) :=
  of_idle hp (h.tables.of_eq rfl rfl rfl rfl) h.unconfigured h.configured (fun hc => h.revEmpty hc hp) h.decoded h.encoded
    h.oneResult h.cntRange he

/-- An unconfigured block has no result. -/
theorem no_result (h : Inv s) (hc : s.cfgOk = false) : s.resV = false ∧ s.obufV = false := by
  refine ⟨?_, ?_⟩ <;> rw [← Bool.not_eq_true] <;> intro hv
  · exact absurd (h.decoded hv).1 (by simp [hc])
  · exact absurd (h.encoded hv).1 (by simp [hc])

theorem setFwd (h : Inv s) (hp : s.phase = .idle) (hc : s.cfgOk = false) {i : Nat} (hi : i < 256) (c : Sym) :
    Inv (s.setFwd i c) := by
  obtain ⟨hres, hobuf⟩ := h.no_result hc
  exact of_idle hp (h.tables.setFwd hi c) h.unconfigured (by simp [hc]) (fun hc => h.revEmpty hc hp) (by simp [hres])
    (by simp [hobuf]) h.oneResult h.cntRange h.errCode

theorem setIbuf (h : Inv s) (hp : s.phase = .idle) {j : Nat} (hj : j < 32) (c : Sym) : Inv (s.setIbuf j c) :=
  of_idle hp (h.tables.setIbuf hj c) h.unconfigured h.configured (fun hc => h.revEmpty hc hp) h.decoded h.encoded
    h.oneResult h.cntRange h.errCode

theorem startCfg (h : Inv s) (hc : s.cfgOk = false) (n : Idx) :
    Inv ((({ s with len := n }).clearRev.acceptOk .cfg).startRun .cfgRun) := by
  obtain ⟨hres, hobuf⟩ := h.no_result hc
  exact of_busy (by simp) ⟨rfl, rfl, hres, hobuf⟩ (h.tables.clearRev.of_eq rfl rfl rfl rfl) h.unconfigured (by simp [hc])
    (fun _ => ⟨hc, rfl, State.inverseUpTo_zero rfl, .inl rfl⟩) (by simp) (by simp) (Nat.zero_le _)

theorem startEnc (h : Inv s) (hc : s.cfgOk = true) (v : Value) :
    Inv ((({ s with acc := zextAcc v }).clearResults.acceptOk .enc).startRun .encRun) := by
  have hacc : (zextAcc v).toNat < s.b.toNat ^ s.w.toNat := by
    rw [zextAcc, BitVec.toNat_setWidth_of_le (by decide)]
    exact Nat.lt_of_lt_of_le v.isLt (h.width_bounds hc).2.1
  exact of_busy (by simp) ⟨rfl, rfl, rfl, rfl⟩ (h.tables.of_eq rfl rfl rfl rfl) h.unconfigured h.configured (by simp)
    (fun _ => ⟨hc, rfl, Nat.zero_le _, hacc, fun j hle hlt => absurd hle (Nat.not_le_of_lt hlt)⟩) (by simp) (Nat.zero_le _)

theorem startDec (h : Inv s) (hc : s.cfgOk = true) (n : Idx) :
    Inv ((({ s with len := n, acc := 0 }).clearResults.acceptOk .dec).startRun .decRun) :=
  of_busy (by simp) ⟨rfl, rfl, rfl, rfl⟩ (h.tables.of_eq rfl rfl rfl rfl) h.unconfigured h.configured (by simp) (by simp)
    (fun _ => ⟨hc, rfl, Nat.zero_le _, fun h0 => absurd rfl h0, by simp⟩) (Nat.zero_le _)

theorem after_acceptStep {i : Instr} (h : Inv s) (hp : s.phase = .idle) (ha : AcceptStep s i t) : Inv t := by
  cases ha with
  | status _ e x _ he => exact h.report hp he _ x
  | wrsym idx sym hc hi => exact (h.setFwd hp hc hi sym).report hp (by decide) _ _
  | cfg n hc => exact h.startCfg hc n
  | enc v hc => exact h.startEnc hc v
  | wrin idx sym hi => exact (h.setIbuf hp hi sym).report hp (by decide) _ _
  | dec n hc => exact h.startDec hc n
  | rst => exact toReset s

/-! ### Steps of the core -/

/-- A command completes with an error, or with an alphabet that stands already. -/
theorem complete (h : Inv s) (hp : s.phase ≠ .idle) (hrev : s.cfgOk = false → s.rev = []) {e : ErrCode}
    (he : e ≠ .encRange ∧ e ≠ .encLen) (x : Idx) : Inv (s.complete e x) := by
  obtain ⟨-, -, hres, hobuf⟩ := h.running hp
  exact of_idle rfl (h.tables.of_eq rfl rfl rfl rfl) h.unconfigured h.configured hrev (by simp [hres]) (by simp [hobuf])
    h.oneResult h.cntRange he

/-- A CFG that fails its count check leaves REV empty (R93, R94). -/
theorem after_cfgCount (h : Inv s) (hp : s.phase = .cfgRun) (h0 : s.cnt = 0) {e : ErrCode}
    (he : e ≠ .encRange ∧ e ≠ .encLen) (x : Idx) : Inv (s.complete e x) := by
  obtain ⟨-, -, hinv, -⟩ := h.cfgRunning hp
  rw [h0] at hinv
  exact h.complete (by simp [hp]) (fun _ => State.rev_eq_nil h.tables hinv) he x

theorem after_cfgDuplicate (h : Inv s) (hp : s.phase = .cfgRun) (x : Idx) : Inv (s.clearRev.complete .alphaDup x) := by
  obtain ⟨hc, -⟩ := h.cfgRunning hp
  obtain ⟨hres, hobuf⟩ := h.no_result hc
  exact of_idle rfl (h.tables.clearRev.of_eq rfl rfl rfl rfl) h.unconfigured (by simp [hc]) (fun _ => rfl) (by simp [hres])
    (by simp [hobuf]) h.oneResult h.cntRange (by simp)

theorem after_cfgScan (h : Inv s) (hp : s.phase = .cfgRun) (h16 : 16 ≤ s.len.toNat) (h256 : s.len.toNat ≤ 256)
    (hlt : s.cnt.toNat < s.len.toNat) (hnew : s.revAt (s.fwdAt s.cnt.toNat) = none) :
    Inv (s.setRev (s.fwdAt s.cnt.toNat) (low8 s.cnt)).countStep := by
  obtain ⟨hc, hk, hinv, -⟩ := h.cfgRunning hp
  have hcnt : (s.cnt + 1).toNat = s.cnt.toNat + 1 := cnt_succ_toNat h.cntRange
  have hscan := State.inverseUpTo_scan (by omega) hinv hnew
  rw [← hcnt] at hscan
  exact of_busy (by simp [hp]) (h.running (by simp [hp])) ((h.tables.setRev _ _).of_eq rfl rfl rfl rfl) h.unconfigured
    (by simp [hc]) (fun _ => ⟨hc, hk, hscan, .inr ⟨h16, h256, hcnt.trans_le hlt⟩⟩) (by simp [hp]) (by simp [hp])
    (hcnt.trans_le (by omega))

theorem after_cfgLock (h : Inv s) (hp : s.phase = .cfgRun) (h16 : 16 ≤ s.len.toNat) (h256 : s.len.toNat ≤ 256)
    (heq : s.cnt.toNat = s.len.toNat) : Inv ((s.lockAlphabet s.len.toNat).complete .ok 0) := by
  obtain ⟨hc, -, hinv, -⟩ := h.cfgRunning hp
  obtain ⟨hres, hobuf⟩ := h.no_result hc
  rw [heq] at hinv
  have hb : (BitVec.ofNat 9 s.len.toNat).toNat = s.len.toNat := toNat_ofNat_of_lt (by omega)
  have hw : (BitVec.ofNat 6 (width s.len.toNat)).toNat = width s.len.toNat :=
    toNat_ofNat_of_lt (by have := width_le h16; omega)
  refine of_idle rfl (h.tables.of_eq rfl rfl rfl rfl) (by simp) (fun _ => ?_) (by simp) (by simp [hres])
    (by simp [hobuf]) h.oneResult h.cntRange (by simp)
  simp only [State.complete_b, State.complete_w, State.lockAlphabet_b, State.lockAlphabet_w, hb, hw]
  exact ⟨h16, h256, trivial, hinv⟩

theorem after_encDigit (h : Inv s) (hp : s.phase = .encRun) (hlt : s.cnt.toNat < s.w.toNat)
    (hj : s.w.toNat - 1 - s.cnt.toNat < 32) :
    Inv ({ s.setObuf (s.w.toNat - 1 - s.cnt.toNat) (s.fwdAt (s.acc.toNat % s.b.toNat)) with
      acc := BitVec.ofNat 136 (s.acc.toNat / s.b.toNat) }).countStep := by
  obtain ⟨hc, hk, -, hacc, hout⟩ := h.encRunning hp
  obtain ⟨h16, -⟩ := h.configured hc
  have hcnt : (s.cnt + 1).toNat = s.cnt.toNat + 1 := cnt_succ_toNat h.cntRange
  have hq : (BitVec.ofNat 136 (s.acc.toNat / s.b.toNat)).toNat = s.acc.toNat / s.b.toNat :=
    toNat_ofNat_of_lt (Nat.lt_of_le_of_lt (Nat.div_le_self _ _) s.acc.isLt)
  have hquot : (BitVec.ofNat 136 (s.acc.toNat / s.b.toNat)).toNat < s.b.toNat ^ (s.w.toNat - (s.cnt + 1).toNat) := by
    rw [hq, hcnt]
    refine div_lt_pow ?_
    rwa [show s.w.toNat - (s.cnt.toNat + 1) + 1 = s.w.toNat - s.cnt.toNat by omega]
  have hb : 0 < s.b.toNat := by omega
  have hle32 := (h.width_bounds hc).1
  refine of_busy (by simp [hp]) (h.running (by simp [hp])) ((h.tables.setObuf hj _).of_eq rfl rfl rfl rfl) h.unconfigured
    h.configured (by simp [hp]) (fun _ => ⟨hc, hk, hcnt.trans_le hlt, hquot, fun j hle (hjw : j < s.w.toNat) => ?_⟩)
    (by simp [hp]) (hcnt.trans_le (by omega))
  have hle : s.w.toNat - (s.cnt + 1).toNat ≤ j := hle
  rw [hcnt] at hle
  have hat := s.obufAt_setObuf (s.w.toNat - 1 - s.cnt.toNat) (s.fwdAt (s.acc.toNat % s.b.toNat)) j
  split at hat
  case isTrue => exact ⟨_, Nat.mod_lt _ hb, hat⟩
  case isFalse hne =>
    obtain ⟨d, hd, hsym⟩ := hout j (by omega) hjw
    exact ⟨d, hd, hat.trans hsym⟩

/-- After W division steps the quotient is 0, so E_ENC_LEN is not reached (R115). -/
theorem enc_acc_zero (h : Inv s) (hp : s.phase = .encRun) (heq : s.cnt.toNat = s.w.toNat) : s.acc = 0 := by
  obtain ⟨-, -, -, hacc, -⟩ := h.encRunning hp
  rw [heq, Nat.sub_self, pow_zero] at hacc
  exact BitVec.eq_of_toNat_eq (Nat.lt_one_iff.1 hacc)

theorem after_encDone (h : Inv s) (hp : s.phase = .encRun) (heq : s.cnt.toNat = s.w.toNat) :
    Inv (s.setObufV.complete .ok 0) := by
  obtain ⟨hc, -, -, -, hout⟩ := h.encRunning hp
  obtain ⟨-, -, hres, -⟩ := h.running (by simp [hp])
  exact of_idle rfl (h.tables.of_eq rfl rfl rfl rfl) h.unconfigured h.configured (by simp [hc]) (by simp [hres])
    (fun _ => ⟨hc, fun j hj => hout j (by omega) hj⟩) (by simp [hres]) h.cntRange (by simp)

theorem after_decDigit (h : Inv s) (hp : s.phase = .decRun) (hlen : s.len.toNat = s.w.toNat) (hlt : s.cnt.toNat < s.w.toNat)
    {d : BitVec 8} (hd : s.revAt (s.ibufAt s.cnt.toNat) = some d)
    (hfit : s.acc.toNat * s.b.toNat + d.toNat < 2 ^ 136) :
    Inv ({ s with acc := BitVec.ofNat 136 (s.acc.toNat * s.b.toNat + d.toNat) }).countStep := by
  obtain ⟨hc, hk, -, -, hacc⟩ := h.decRunning hp
  have hcnt : (s.cnt + 1).toNat = s.cnt.toNat + 1 := cnt_succ_toNat h.cntRange
  have hval : (BitVec.ofNat 136 (s.acc.toNat * s.b.toNat + d.toNat)).toNat < s.b.toNat ^ (s.cnt + 1).toNat := by
    rw [toNat_ofNat_of_lt hfit, hcnt]
    exact horner_lt_pow hacc (h.digit_lt hc hd)
  have hle32 := (h.width_bounds hc).1
  exact of_busy (by simp [hp]) (h.running (by simp [hp])) (h.tables.of_eq rfl rfl rfl rfl) h.unconfigured h.configured
    (by simp [hp]) (by simp [hp]) (fun _ => ⟨hc, hk, hcnt.trans_le hlt, fun _ => hlen, hval⟩) (hcnt.trans_le (by omega))

theorem after_decDone (h : Inv s) (hp : s.phase = .decRun) (ha : s.acc.toNat < 2 ^ 128) :
    Inv (s.setResV.complete .ok 0) := by
  obtain ⟨hc, -⟩ := h.decRunning hp
  obtain ⟨-, -, -, hobuf⟩ := h.running (by simp [hp])
  exact of_idle rfl (h.tables.of_eq rfl rfl rfl rfl) h.unconfigured h.configured (by simp [hc]) (fun _ => ⟨hc, ha⟩)
    (by simp [hobuf]) (by simp [hobuf]) h.cntRange (by simp)

theorem after_runStep (h : Inv s) (hr : RunStep s t) : Inv t := by
  have decError (hp : s.phase = .decRun) {e : ErrCode} (he : e ≠ .encRange ∧ e ≠ .encLen) (x : Idx) :
      Inv (s.complete e x) :=
    h.complete (by simp [hp]) (by simp [(h.decRunning hp).1]) he x
  cases hr with
  | idle => exact h
  | cfgFew hp h0 => exact h.after_cfgCount hp h0 (by decide) _
  | cfgMany hp h0 => exact h.after_cfgCount hp h0 (by decide) _
  | cfgDuplicate hp => exact h.after_cfgDuplicate hp _
  | cfgScan hp h16 h256 hlt hnew => exact h.after_cfgScan hp h16 h256 hlt hnew
  | cfgLock hp h16 h256 heq => exact h.after_cfgLock hp h16 h256 heq
  | encDigit hp hlt _ _ hj => exact h.after_encDigit hp hlt hj
  | encTooLong hp heq ha => exact absurd (h.enc_acc_zero hp heq) ha
  | encDone hp heq => exact h.after_encDone hp heq
  | decLength hp => exact decError hp (by decide) _
  | decBadSymbol hp => exact decError hp (by decide) _
  | decDigit hp hlen hlt d hd hfit => exact h.after_decDigit hp hlen hlt hd hfit
  | decTooLarge hp => exact decError hp (by decide) _
  | decDone hp _ _ ha => exact h.after_decDone hp ha

/-- Every step keeps the invariant, whichever agent moves. -/
theorem after_step (h : Inv s) (hs : step s = .next t) : Inv t := by
  obtain ⟨l, ⟨-, rfl⟩ | ⟨i, hi, ha⟩ | hr⟩ := step_agents hs
  · exact toReset _
  · exact (h.withInputs l).after_acceptStep hi.phase_idle ha
  · exact (h.withInputs l).after_runStep hr

end Inv

/-- Settles O1: the reset state lists no table entry, is unconfigured and ready, and records no result. -/
theorem invariantHoldsAtReset : Obligations.InvariantHoldsAtReset := Inv.reset

/-- Settles O2: a reset, an accept step and a step of the core each keep the invariant. -/
theorem everyStepKeepsTheInvariant : Obligations.EveryStepKeepsTheInvariant := fun _ _ h hs => h.after_step hs

end Sys2Proof.Machine
end

section
/-! PROOFS. Progress: in a state of the invariant every step of the core, and so every step, answers a next state. -/

namespace Sys2Proof.Machine

theorem cfgScan_answers (s : State) : ∃ t, cfgScan s = .next t := by
  rw [cfgScan]
  cases s.revAt (s.fwdAt s.cnt.toNat) <;> exact ⟨_, rfl⟩

namespace Inv

variable {s : State}

theorem cfgRunStep_answers (h : Inv s) (hp : s.phase = .cfgRun) : ∃ t, cfgRunStep s = .next t := by
  obtain ⟨-, -, -, hlen⟩ := h.cfgRunning hp
  have hcnt : s.cnt = 0 ↔ s.cnt.toNat = 0 := BitVec.toNat_inj.symm
  rw [hcnt] at hlen
  simp only [cfgRunStep, hcnt]
  split_ifs with hfew hmany hout hlt heq
  · exact ⟨_, rfl⟩
  · exact ⟨_, rfl⟩
  · omega
  · exact cfgScan_answers s
  · exact ⟨_, rfl⟩
  · omega

theorem encRunStep_answers (h : Inv s) (hp : s.phase = .encRun) : ∃ t, encRunStep s = .next t := by
  obtain ⟨hc, -, hcnt, -⟩ := h.encRunning hp
  obtain ⟨h16, h256, -⟩ := h.configured hc
  have hw := (h.width_bounds hc).1
  have hb : s.b ≠ 0 := fun h0 => by rw [h0] at h16; exact absurd h16 (by decide)
  have hrem : s.acc.toNat % s.b.toNat < s.b.toNat := Nat.mod_lt _ (by omega)
  rw [encRunStep]
  split_ifs with hlt heq
  · have hin : ¬(256 ≤ s.acc.toNat % s.b.toNat ∨ 32 ≤ s.w.toNat - 1 - s.cnt.toNat) := by omega
    rw [encDigit, if_neg hb, if_neg hin]
    exact ⟨_, rfl⟩
  · rw [encFinish]
    split_ifs <;> exact ⟨_, rfl⟩
  · omega

/-- The Horner step of a running DEC fits ACC (R131). -/
theorem horner_fits (h : Inv s) (hp : s.phase = .decRun) (hlt : s.cnt.toNat < s.w.toNat) {sym : Sym} {d : BitVec 8}
    (hd : s.revAt sym = some d) : s.acc.toNat * s.b.toNat + d.toNat < 2 ^ 136 := by
  obtain ⟨hc, -, -, -, hacc⟩ := h.decRunning hp
  obtain ⟨h16, -⟩ := h.configured hc
  calc s.acc.toNat * s.b.toNat + d.toNat
      < s.b.toNat ^ (s.cnt.toNat + 1) := horner_lt_pow hacc (h.digit_lt hc hd)
    _ ≤ s.b.toNat ^ s.w.toNat := Nat.pow_le_pow_right (by omega) hlt
    _ < 2 ^ 136 := (h.width_bounds hc).2.2

theorem decDigit_answers (h : Inv s) (hp : s.phase = .decRun) (hlt : s.cnt.toNat < s.w.toNat) :
    ∃ t, decDigit s = .next t := by
  have hw := (h.width_bounds (h.decRunning hp).1).1
  rw [decDigit, if_neg (by omega)]
  cases hd : s.revAt (s.ibufAt s.cnt.toNat) with
  | none => exact ⟨_, rfl⟩
  | some d =>
    dsimp only
    rw [if_neg (Nat.not_le_of_lt (h.horner_fits hp hlt hd))]
    exact ⟨_, rfl⟩

theorem decRunStep_answers (h : Inv s) (hp : s.phase = .decRun) : ∃ t, decRunStep s = .next t := by
  obtain ⟨-, -, hcnt, hlen, -⟩ := h.decRunning hp
  rw [decRunStep]
  split_ifs with hfirst hne hlt heq
  · exact ⟨_, rfl⟩
  · exact absurd (hlen fun h0 => hfirst ⟨h0, hne⟩) hne
  · exact h.decDigit_answers hp hlt
  · rw [decFinish]
    split_ifs <;> exact ⟨_, rfl⟩
  · omega

theorem runStep_answers (h : Inv s) : ∃ t, runStep s = .next t := by
  rw [runStep]
  cases hp : s.phase with
  | idle => exact ⟨_, rfl⟩
  | cfgRun => exact h.cfgRunStep_answers hp
  | encRun => exact h.encRunStep_answers hp
  | decRun => exact h.decRunStep_answers hp

theorem step_answers (h : Inv s) : ∃ t, step s = .next t := by
  rw [step]
  cases hin : s.inputs with
  | nil => exact h.runStep_answers
  | cons p rest =>
    simp only [stepWith]
    split_ifs
    · exact ⟨_, rfl⟩
    · exact exec_answers _ _
    · exact ⟨_, rfl⟩
    · exact (h.withInputs _).runStep_answers

end Inv

/-- Settles O3: in each phase the bounds of the invariant exclude the four faults. -/
theorem invariantStatesNeverStop : Obligations.InvariantStatesNeverStop := fun _ h => h.step_answers

end Sys2Proof.Machine
end

section
/-! PROOFS. The host at the command port: a running command completes within the bound of the drivers, and a beat held
on offer meanwhile is then accepted. -/

namespace Sys2Proof.Machine

/-- Decoding a command's canonical beat gives the command, constructor by constructor. -/
theorem decode_encode (i : Instr) : decode (encode i) = i := by
  cases i with
  | nop => exact Laws.Encoding.nop
  | wrsym idx sym => exact Laws.Encoding.wrsym idx sym
  | cfg n => exact Laws.Encoding.cfg n
  | enc v => exact Laws.Encoding.enc v
  | wrin idx sym => exact Laws.Encoding.wrin idx sym
  | dec n => exact Laws.Encoding.dec n
  | ill6 => exact Laws.Encoding.ill6
  | ill7 => exact Laws.Encoding.ill7
  | ill8 => exact Laws.Encoding.ill8
  | ill9 => exact Laws.Encoding.ill9
  | illA => exact Laws.Encoding.illA
  | illB => exact Laws.Encoding.illB
  | illC => exact Laws.Encoding.illC
  | illD => exact Laws.Encoding.illD
  | illE => exact Laws.Encoding.illE
  | rst => exact Laws.Encoding.rst

/-! ## The core does not look at the host's script -/

theorem cfgRunStep_withInputs (s : State) (l : List PortIn) :
    cfgRunStep { s with inputs := l } = andThen (cfgRunStep s) fun t => .next { t with inputs := l } := by
  have hscan : cfgScan { s with inputs := l } = andThen (cfgScan s) fun t => .next { t with inputs := l } := by
    have hrev : ({ s with inputs := l } : State).revAt (({ s with inputs := l } : State).fwdAt s.cnt.toNat) =
      s.revAt (s.fwdAt s.cnt.toNat) := rfl
    simp only [cfgScan, hrev]
    cases s.revAt (s.fwdAt s.cnt.toNat) <;> rfl
  simp only [cfgRunStep, hscan]
  split_ifs <;> rfl

theorem encRunStep_withInputs (s : State) (l : List PortIn) :
    encRunStep { s with inputs := l } = andThen (encRunStep s) fun t => .next { t with inputs := l } := by
  simp only [encRunStep, encDigit, encFinish]
  split_ifs <;> rfl

theorem decRunStep_withInputs (s : State) (l : List PortIn) :
    decRunStep { s with inputs := l } = andThen (decRunStep s) fun t => .next { t with inputs := l } := by
  have hdigit : decDigit { s with inputs := l } = andThen (decDigit s) fun t => .next { t with inputs := l } := by
    have hrev : ({ s with inputs := l } : State).revAt (({ s with inputs := l } : State).ibufAt s.cnt.toNat) =
      s.revAt (s.ibufAt s.cnt.toNat) := rfl
    simp only [decDigit, hrev]
    cases s.revAt (s.ibufAt s.cnt.toNat) <;> dsimp only <;> split_ifs <;> rfl
  simp only [decRunStep, hdigit, decFinish]
  split_ifs <;> rfl

/-- What the host will drive is carried along by a step of the core and changes nothing in it. -/
theorem runStep_withInputs (s : State) (l : List PortIn) :
    runStep { s with inputs := l } = andThen (runStep s) fun t => .next { t with inputs := l } := by
  simp only [runStep]
  split
  · rfl
  · exact cfgRunStep_withInputs s l
  · exact encRunStep_withInputs s l
  · exact decRunStep_withInputs s l

/-- A busy block takes the same step whatever beat is held on offer (R81, R215). -/
theorem step_held_of_busy {s u : State} (hp : s.phase ≠ .idle) (c : Beat) (hu : runStep s = .next u) :
    step { s with inputs := [PortIn.offer c] } = .next { u with inputs := [PortIn.offer c] } := by
  have hrun : step { s with inputs := [PortIn.offer c] } = runStep { s with inputs := [PortIn.offer c] } := by
    simp [step, stepWith, PortIn.offer, inputsAfterBusy, hp]
  rw [hrun, runStep_withInputs, hu, andThen]

theorem step_of_quiet {s : State} (h : s.inputs = []) : step s = runStep s := by
  rw [step, h]

theorem withInputs_nil {s : State} (h : s.inputs = []) : { s with inputs := [] } = s := by
  rw [← h]

/-! ## Completion within the drivers' bound -/

/-- More steps of the core than this a block of the invariant does not stay busy (R220): CNT is at most 256. -/
def State.stepsLeft (s : State) : Nat := if s.phase = .idle then 0 else 257 - s.cnt.toNat

/-- A step of the core completes the running command, or counts one digit step of it. -/
theorem RunStep.completes_or_counts {s t : State} (h : RunStep s t) :
    t.phase = .idle ∨ (t.phase = s.phase ∧ t.cnt = s.cnt + 1) := by
  cases h with
  | idle hp => exact .inl hp
  | cfgScan | encDigit | decDigit => exact .inr ⟨rfl, rfl⟩
  | _ => exact .inl rfl

theorem Inv.stepsLeft_decreases {s t : State} (h : Inv s) (hp : s.phase ≠ .idle) (hr : RunStep s t) :
    t.stepsLeft < s.stepsLeft := by
  have hs := h.cntRange
  rw [State.stepsLeft, State.stepsLeft, if_neg hp]
  obtain hidle | ⟨hphase, hcnt⟩ := hr.completes_or_counts
  · rw [if_pos hidle]
    omega
  · rw [if_neg (hphase ▸ hp), hcnt, cnt_succ_toNat hs]
    omega

/-- With fuel for the steps left, the host that waits finds a ready block of the invariant with the same OPK, and the
host that holds a beat on offer has it accepted on that very block. -/
theorem Inv.completes {n : Nat} {s : State} (h : Inv s) (hin : s.inputs = []) (hn : s.stepsLeft < n) :
    ∃ r, waitReady n s = .next r ∧ r.phase = .idle ∧ r.opk = s.opk ∧ r.inputs = [] ∧ Inv r ∧
      ∀ c, waitAccepted n { s with inputs := [PortIn.offer c] } = exec (decode c) r := by
  induction n generalizing s with
  | zero => exact absurd hn (Nat.not_lt_zero _)
  | succ n ih =>
    by_cases hp : s.phase = .idle
    · refine ⟨s, waitReady_of_idle hp, hp, rfl, hin, h, fun c => ?_⟩
      obtain ⟨t, ht⟩ := exec_answers (decode c) s
      rw [waitAccepted, if_neg (List.cons_ne_nil _ _), step_offer hp, withInputs_nil hin, ht, andThen,
        waitAccepted_of_quiet ((exec_inputs ht).trans hin)]
    · obtain ⟨u, hu⟩ := h.runStep_answers
      have hrun := RunStep.of_runStep hu
      obtain ⟨-, -, hopk, hinu, -⟩ := hrun.frame
      have hless := h.stepsLeft_decreases hp hrun
      obtain ⟨r, hr, hidle, hropk, hrin, hrinv, hacc⟩ := ih (h.after_runStep hrun) (hinu.trans hin) (by omega)
      refine ⟨r, ?_, hidle, hropk.trans hopk, hrin, hrinv, fun c => ?_⟩
      · rw [waitReady, if_neg hp, step_of_quiet hin, hu, andThen, hr]
      · rw [waitAccepted, if_neg (List.cons_ne_nil _ _), step_held_of_busy hp c hu, andThen, hacc]

theorem State.stepsLeft_lt (s : State) : s.stepsLeft < 300 := by
  rw [State.stepsLeft]
  split <;> omega

/-- What `issue` does on any block of the invariant: the running command completes on a ready block r, whose accept step
the beat gets, and then the host waits for its completion. -/
theorem Inv.issue_after_completion {s : State} (h : Inv s) :
    ∃ r, waitReady 300 { s with inputs := [] } = .next r ∧ r.phase = .idle ∧ r.inputs = [] ∧ Inv r ∧
      ∀ c, issue c s = andThen (exec (decode c) r) (waitReady 300) := by
  obtain ⟨r, hr, hidle, -, hin, hinv, hacc⟩ := (h.withInputs []).completes rfl (State.stepsLeft_lt _)
  exact ⟨r, hr, hidle, hin, hinv, fun c => congrArg (andThen · (waitReady 300)) (hacc c)⟩

theorem opKindOf_ne_none_iff (i : Instr) : opKindOf i ≠ .none ↔ i ≠ .rst := by
  cases i <;> simp [opKindOf]

/-- An accepted command ends on a ready block of the invariant whose OPK is its kind. -/
theorem Inv.exec_completes {s : State} (h : Inv s) (hp : s.phase = .idle) (hin : s.inputs = []) (i : Instr) :
    ∃ t, andThen (exec i s) (waitReady 300) = .next t ∧ t.phase = .idle ∧ t.opk = opKindOf i := by
  obtain ⟨u, hu⟩ := exec_answers i s
  have hacc := AcceptStep.of_exec hu
  obtain ⟨t, ht, hidle, hopk, -⟩ :=
    (h.after_acceptStep hp hacc).completes ((exec_inputs hu).trans hin) (State.stepsLeft_lt u)
  exact ⟨t, by rw [hu, andThen, ht], hidle, hopk.trans hacc.opk⟩

/-- Settles O19: by induction on the fuel of the drivers, which the steps left stay below. -/
theorem completionShowsDone : Obligations.CompletionShowsDone := by
  constructor
  · intro s i h
    obtain ⟨r, -, hidle, hin, hinv, hissue⟩ := h.issue_after_completion
    obtain ⟨t, ht, htidle, hopk⟩ := hinv.exec_completes hidle hin i
    refine ⟨t, by rw [hissue, decode_encode, ht], by simp [State.cmdReady, htidle], ?_, hopk⟩
    simp [State.done, htidle, hopk, ← opKindOf_ne_none_iff]
  · intro s c h
    obtain ⟨r, hr, hidle, hin, -, hissue⟩ := h.issue_after_completion
    refine ⟨r, hr, hidle, ?_⟩
    rw [hissue, issue_of_idle hidle, withInputs_nil hin]

end Sys2Proof.Machine
end

section
/-! PROOFS. What each step can change: the flags and REV (R46), the entries of FWD and IBUF (R30, R33), and OPK (R35). -/

namespace Sys2Proof.Machine

variable {s t : State} {i : Instr}

/-! ## The flags and REV in an accept step -/

theorem AcceptStep.cfgOk_eq_or_rst (h : AcceptStep s i t) : t.cfgOk = s.cfgOk ∨ t.cfgOk = false ∧ i = .rst := by
  cases h with
  | rst => exact .inr ⟨rfl, rfl⟩
  | _ => exact .inl rfl

/-- An accept step keeps both result flags or clears both, the latter for RST and for an ENC or DEC that runs. -/
theorem AcceptStep.results_eq_or_cleared (h : AcceptStep s i t) :
    (t.resV = s.resV ∧ t.obufV = s.obufV) ∨
    (t.resV = false ∧ t.obufV = false ∧
      (i = .rst ∨ s.cfgOk = true ∧ ((∃ v, i = .enc v) ∨ ∃ n, i = .dec n))) := by
  cases h with
  | rst => exact .inr ⟨rfl, rfl, .inl rfl⟩
  | enc v hc => exact .inr ⟨rfl, rfl, .inr ⟨hc, .inl ⟨v, rfl⟩⟩⟩
  | dec n hc => exact .inr ⟨rfl, rfl, .inr ⟨hc, .inr ⟨n, rfl⟩⟩⟩
  | _ => exact .inl ⟨rfl, rfl⟩

theorem AcceptStep.rev_eq_or_cleared (h : AcceptStep s i t) :
    t.rev = s.rev ∨ t.rev = [] ∧ (i = .rst ∨ s.cfgOk = false ∧ ∃ n, i = .cfg n) := by
  cases h with
  | rst => exact .inr ⟨rfl, .inl rfl⟩
  | cfg n hc => exact .inr ⟨rfl, .inr ⟨hc, n, rfl⟩⟩
  | _ => exact .inl rfl

/-! ## The flags and REV in a step of the core -/

/-- A command of the phase p completes with E_OK in the step from s to t. -/
def CompletesOk (p : Phase) (s t : State) : Prop := s.phase = p ∧ t.phase = .idle ∧ t.err = .ok

theorem RunStep.cfgOk_eq_or_set (h : RunStep s t) : t.cfgOk = s.cfgOk ∨ t.cfgOk = true ∧ CompletesOk .cfgRun s t := by
  cases h with
  | cfgLock hp => exact .inr ⟨rfl, hp, rfl, rfl⟩
  | _ => exact .inl rfl

theorem RunStep.resV_eq_or_set (h : RunStep s t) : t.resV = s.resV ∨ t.resV = true ∧ CompletesOk .decRun s t := by
  cases h with
  | decDone hp => exact .inr ⟨rfl, hp, rfl, rfl⟩
  | _ => exact .inl rfl

theorem RunStep.obufV_eq_or_set (h : RunStep s t) : t.obufV = s.obufV ∨ t.obufV = true ∧ CompletesOk .encRun s t := by
  cases h with
  | encDone hp => exact .inr ⟨rfl, hp, rfl, rfl⟩
  | _ => exact .inl rfl

/-- A step of the core keeps REV, or gives the scanned symbol an index, or clears REV for a duplicate (R95). -/
theorem RunStep.rev_eq_or_scan (h : RunStep s t) :
    t.rev = s.rev ∨
    (s.phase = .cfgRun ∧ t.phase = .cfgRun ∧
      ∀ sym, t.revAt sym = if sym = s.fwdAt s.cnt.toNat then some (low8 s.cnt) else s.revAt sym) ∨
    (t.rev = [] ∧ s.phase = .cfgRun ∧ t.phase = .idle ∧ t.err = .alphaDup) := by
  cases h with
  | cfgScan hp => exact .inr (.inl ⟨hp, hp, s.revAt_setRev _ _⟩)
  | cfgDuplicate hp => exact .inr (.inr ⟨rfl, hp, rfl, rfl⟩)
  | _ => exact .inl rfl

/-! ## The flags and REV in a step of the machine (R46) -/

theorem step_cfgOk (h : step s = .next t) :
    t.cfgOk = s.cfgOk ∨ (t.cfgOk = true ∧ CompletesOk .cfgRun s t) ∨ (t.cfgOk = false ∧ s.Resets) := by
  obtain ⟨l, ⟨hr, rfl⟩ | ⟨i, hi, ha⟩ | hr⟩ := step_agents h
  · exact .inr (.inr ⟨rfl, hr⟩)
  · obtain heq | ⟨hf, rfl⟩ := ha.cfgOk_eq_or_rst
    · exact .inl heq
    · exact .inr (.inr ⟨hf, .inr hi⟩)
  · exact hr.cfgOk_eq_or_set.imp_right .inl

/-- The next step resets, or accepts an ENC or DEC that runs: what clears the result flags. -/
def State.ClearsResults (s : State) : Prop :=
  s.Resets ∨ s.cfgOk = true ∧ ((∃ v, s.Accepts (.enc v)) ∨ ∃ n, s.Accepts (.dec n))

/-- A step clears the two result flags together; otherwise each is kept, or set by its own command. -/
theorem step_results (h : step s = .next t) :
    (t.resV = false ∧ t.obufV = false ∧ s.ClearsResults) ∨
    (t.resV = s.resV ∨ t.resV = true ∧ CompletesOk .decRun s t) ∧
      (t.obufV = s.obufV ∨ t.obufV = true ∧ CompletesOk .encRun s t) := by
  obtain ⟨l, ⟨hr, rfl⟩ | ⟨i, hi, ha⟩ | hr⟩ := step_agents h
  · exact .inl ⟨rfl, rfl, .inl hr⟩
  · obtain ⟨hres, hobuf⟩ | ⟨hres, hobuf, rfl | ⟨hc, ⟨v, rfl⟩ | ⟨n, rfl⟩⟩⟩ := ha.results_eq_or_cleared
    · exact .inr ⟨.inl hres, .inl hobuf⟩
    · exact .inl ⟨hres, hobuf, .inl (.inr hi)⟩
    · exact .inl ⟨hres, hobuf, .inr ⟨hc, .inl ⟨v, hi⟩⟩⟩
    · exact .inl ⟨hres, hobuf, .inr ⟨hc, .inr ⟨n, hi⟩⟩⟩
  · exact .inr ⟨hr.resV_eq_or_set, hr.obufV_eq_or_set⟩

theorem step_rev (h : step s = .next t) :
    (∀ sym, t.revAt sym = s.revAt sym) ∨
    (s.phase = .cfgRun ∧ t.phase = .cfgRun ∧
      ∀ sym, t.revAt sym = if sym = s.fwdAt s.cnt.toNat then some (low8 s.cnt) else s.revAt sym) ∨
    ((∀ sym, t.revAt sym = none) ∧
      (s.Resets ∨ (s.cfgOk = false ∧ ∃ n, s.Accepts (.cfg n)) ∨
        (s.phase = .cfgRun ∧ t.phase = .idle ∧ t.err = .alphaDup))) := by
  have cleared (hrev : t.rev = []) (sym : Sym) : t.revAt sym = none := by rw [State.revAt, hrev, Memory.read?_nil]
  obtain ⟨l, ⟨hr, rfl⟩ | ⟨i, hi, ha⟩ | hr⟩ := step_agents h
  · exact .inr (.inr ⟨cleared rfl, .inl hr⟩)
  · obtain heq | ⟨hrev, rfl | ⟨hc, n, rfl⟩⟩ := ha.rev_eq_or_cleared
    · exact .inl (State.revAt_congr heq)
    · exact .inr (.inr ⟨cleared hrev, .inl (.inr hi)⟩)
    · exact .inr (.inr ⟨cleared hrev, .inr (.inl ⟨hc, n, hi⟩)⟩)
  · obtain heq | hscan | ⟨hrev, hdup⟩ := hr.rev_eq_or_scan
    · exact .inl (State.revAt_congr heq)
    · exact .inr (.inl hscan)
    · exact .inr (.inr ⟨cleared hrev, .inr (.inr hdup)⟩)

/-- Settles O6: each flag is kept, or changes by one of the agents the table of R46 names. -/
theorem flagsChangeOnlyAsTheSummarySays : Obligations.FlagsChangeOnlyAsTheSummarySays := by
  intro s t h
  have hcfg := step_cfgOk h
  have hres := step_results h
  have hrev := step_rev h
  refine ⟨fun h0 h1 => ?_, fun h1 h0 => ?_, fun h0 h1 => ?_, fun h0 h1 => ?_, fun hfall => ?_, fun sym h0 h1 => ?_,
    fun sym h1 h0 => ?_⟩
  · obtain heq | ⟨-, hok⟩ | ⟨hf, -⟩ := hcfg
    · simp [heq, h0] at h1
    · exact hok
    · simp [hf] at h1
  · obtain heq | ⟨ht, -⟩ | ⟨-, hr⟩ := hcfg
    · simp [heq, h1] at h0
    · simp [ht] at h0
    · exact hr
  · obtain ⟨hf, -⟩ | ⟨heq | ⟨-, hok⟩, -⟩ := hres
    · simp [hf] at h1
    · simp [heq, h0] at h1
    · exact hok
  · obtain ⟨-, hf, -⟩ | ⟨-, heq | ⟨-, hok⟩⟩ := hres
    · simp [hf] at h1
    · simp [heq, h0] at h1
    · exact hok
  · obtain ⟨-, -, hclear⟩ | ⟨hr, ho⟩ := hres
    · exact hclear
    · obtain ⟨h1, h0⟩ | ⟨h1, h0⟩ := hfall
      · simp [h1, h0] at hr
      · simp [h1, h0] at ho
  · obtain heq | ⟨hp, hp', hscan⟩ | ⟨hnone, -⟩ := hrev
    · exact absurd ((heq sym).trans h0) h1
    · refine ⟨hp, hp', ?_⟩
      by_contra hne
      exact h1 ((hscan sym).trans ((if_neg (Ne.symm hne)).trans h0))
    · exact absurd (hnone sym) h1
  · obtain heq | ⟨-, -, hscan⟩ | ⟨-, hwhy⟩ := hrev
    · exact absurd ((heq sym).symm.trans h0) h1
    · rw [hscan sym] at h0
      split at h0
      · cases h0
      · exact absurd h0 h1
    · exact hwhy

/-! ## The entries of FWD and IBUF (R30, R33) -/

/-- An accept step that is no RST changes an FWD entry only for the WRSYM of that index and symbol. -/
theorem AcceptStep.fwdAt_changes (h : AcceptStep s i t) (hi : i ≠ .rst) {k : Nat} (hk : t.fwdAt k ≠ s.fwdAt k) :
    s.cfgOk = false ∧ ∃ idx : Idx, idx.toNat = k ∧ k < 256 ∧ i = .wrsym idx (t.fwdAt k) := by
  cases h with
  | rst => exact absurd rfl hi
  | wrsym idx sym hc hlt =>
    have hat : ((s.setFwd idx.toNat sym).acceptOk .wrsym).fwdAt k = if k = idx.toNat then sym else s.fwdAt k :=
      s.fwdAt_setFwd idx.toNat sym k
    rw [hat] at hk ⊢
    split at hk
    case isTrue heq => exact ⟨hc, idx, heq.symm, heq ▸ hlt, by rw [if_pos heq]⟩
    case isFalse => exact absurd rfl hk
  | _ => exact absurd rfl hk

/-- An accept step that is no RST changes an IBUF entry only for the WRIN of that index and symbol. -/
theorem AcceptStep.ibufAt_changes (h : AcceptStep s i t) (hi : i ≠ .rst) {j : Nat} (hj : t.ibufAt j ≠ s.ibufAt j) :
    ∃ idx : Idx, idx.toNat = j ∧ j < 32 ∧ i = .wrin idx (t.ibufAt j) := by
  cases h with
  | rst => exact absurd rfl hi
  | wrin idx sym hlt =>
    have hat : ((s.setIbuf idx.toNat sym).acceptOk .wrin).ibufAt j = if j = idx.toNat then sym else s.ibufAt j :=
      s.ibufAt_setIbuf idx.toNat sym j
    rw [hat] at hj ⊢
    split at hj
    case isTrue heq => exact ⟨idx, heq.symm, heq ▸ hlt, by rw [if_pos heq]⟩
    case isFalse => exact absurd rfl hj
  | _ => exact absurd rfl hj

/-- Settles O7: a step of the core keeps both tables, and an accept step writes at most the entry of its command. -/
theorem tableEntriesChangeOnlyByTheirCommand : Obligations.TableEntriesChangeOnlyByTheirCommand := by
  intro s t h hreset
  obtain ⟨l, ⟨hr, -⟩ | ⟨i, hi, ha⟩ | hr⟩ := step_agents h
  · exact absurd hr hreset
  · have hrst : i ≠ .rst := fun heq => hreset (.inr (heq ▸ hi))
    refine ⟨fun k hk => ?_, fun j hj => ?_⟩
    · obtain ⟨hc, idx, hidx, hlt, rfl⟩ := ha.fwdAt_changes hrst hk
      exact ⟨hc, idx, hidx, hlt, hi⟩
    · obtain ⟨idx, hidx, hlt, rfl⟩ := ha.ibufAt_changes hrst hj
      exact ⟨idx, hidx, hlt, hi⟩
  · obtain ⟨hfwd, hibuf, -, -, hresets⟩ := hr.frame
    exact ⟨fun k hk => absurd (State.fwdAt_congr hfwd hresets k) hk,
      fun j hj => absurd (State.ibufAt_congr hibuf hresets j) hj⟩

/-! ## OPK (R35) -/

/-- The port OPK shows the number of the kind of the command just accepted. -/
theorem AcceptStep.opk_port (h : AcceptStep s i t) (k : Nat) : (t.ports k).opk = (opKindOf i).code :=
  congrArg OpKind.code h.opk

/-- Settles O58: an accept step writes the kind of its command, and a step of the core keeps OPK. -/
theorem opkPortNumbersTheLastCommand : Obligations.OpkPortNumbersTheLastCommand := by
  refine ⟨fun _ => rfl, fun i s t k h => ?_, fun s t k h hreset hacc => ?_⟩
  · rw [(AcceptStep.of_exec h).opk_port k]
    cases i <;> simp [opKindOf, OpKind.code]
  · obtain ⟨l, ⟨hr, -⟩ | ⟨i, hi, -⟩ | hr⟩ := step_agents h
    · exact absurd hr hreset
    · exact absurd hi (hacc i)
    · obtain ⟨-, -, hopk, -⟩ := hr.frame
      exact congrArg OpKind.code hopk

end Sys2Proof.Machine
end

section
/-! PROOFS. The state after reset (R43), and what the output ports show (R38 to R41). -/

namespace Sys2Proof.Machine

theorem State.reset_hasResetValues : State.reset.HasResetValues where
  phase := rfl
  cfgOk := rfl
  b := rfl
  w := rfl
  rev _ := rfl
  opk := rfl
  err := rfl
  errInfo := rfl
  resV := rfl
  obufV := rfl
  cnt := rfl
  len := rfl

/-- Settles O18: the reset state, field by field. -/
theorem resetStateValues : Obligations.ResetStateValues :=
  ⟨State.reset_hasResetValues, rfl, rfl, rfl, rfl⟩

variable {s : State}

theorem State.cmdReady_iff : s.cmdReady = true ↔ s.phase = .idle := by
  rw [State.cmdReady, decide_eq_true_eq]

theorem State.done_iff : s.done = true ↔ s.phase = .idle ∧ s.opk ≠ .none := by
  rw [State.done, Bool.and_eq_true, decide_eq_true_eq, decide_eq_true_eq]

/-- The OBUF ports of a readable string show it, entry by entry (R39, R118). -/
theorem State.obuf_port_of_valid (hv : s.obufV = true) (hp : s.phase = .idle) (hw : s.w.toNat ≤ 32) (k : Nat) {j : Nat}
    (hj : j < s.w.toNat) : (s.ports k).obuf[j]? = some (s.obufAt j) := by
  have hstr := State.encodedString_of_valid hv hp
  have hat : ((List.range s.w.toNat).map s.obufAt)[j]? = some (s.obufAt j) := by simp [hj]
  have hport : (s.ports k).obuf[j]? = some (s.obufPort k j) := by simp [State.ports, show j < 32 by omega]
  rw [hport, State.obufPort_of_encodedString hstr hat]

/-- The first W OBUF ports of a readable string are the string. -/
theorem State.obuf_ports_of_valid (hv : s.obufV = true) (hp : s.phase = .idle) (hw : s.w.toNat ≤ 32) (k : Nat) :
    s.encodedString = some ((s.ports k).obuf.take s.w.toNat) := by
  rw [State.encodedString_of_valid hv hp]
  congr 1
  refine List.ext_getElem? fun j => ?_
  by_cases hj : j < s.w.toNat
  · rw [List.getElem?_take_of_lt hj, State.obuf_port_of_valid hv hp hw k hj]
    simp [hj]
  · simp [hj]

/-- Settles O60: the status ports show their registers, RES the low half of ACC, and the OBUF ports the string, which on
a block of the invariant has at most 32 symbols, each of the alphabet. -/
theorem portsShowWhatCanBeRead : Obligations.PortsShowWhatCanBeRead := by
  intro s k
  refine ⟨State.cmdReady_iff, State.done_iff, rfl, rfl, rfl, rfl, rfl, rfl, by simp [State.ports], fun hv hp => ?_,
    fun h hv hp => ?_⟩
  · have hres := State.decodedValue_of_valid hv hp
    have hport : (s.ports k).res = s.acc.setWidth 128 := State.resPort_of_decodedValue hres k
    rw [hport]
    exact ⟨BitVec.toNat_setWidth 128 s.acc, hres⟩
  · obtain ⟨hc, hsym⟩ := h.encoded hv
    have hw := (h.width_bounds hc).1
    exact ⟨State.obuf_ports_of_valid hv hp hw k, fun j hj => ⟨State.obuf_port_of_valid hv hp hw k hj, hsym j hj⟩⟩

end Sys2Proof.Machine
end

section
/-! PROOFS. The command beat: its fields as numbers, the opcode map and the opcode table (`30_encoding.md` R70 to
R80). -/

namespace Sys2Proof

/-- The three fields of a beat, each at its own weight (R70). -/
theorem packBeat_toNat (op : BitVec 4) (idx : Idx) (data : Value) :
    (packBeat op idx data).toNat = op.toNat * 2 ^ 144 + idx.toNat * 2 ^ 128 + data.toNat := by
  rw [packBeat, BitVec.toNat_append, BitVec.toNat_append, ← Nat.shiftLeft_add_eq_or_of_lt data.isLt,
    ← Nat.shiftLeft_add_eq_or_of_lt idx.isLt, Nat.shiftLeft_eq, Nat.shiftLeft_eq]
  omega

/-- Every beat is the pack of its three fields. -/
theorem packBeat_fields (c : Beat) : packBeat (opField c) (idxField c) (dataField c) = c := by
  refine BitVec.eq_of_toNat_eq ?_
  have hlt := c.isLt
  simp only [packBeat_toNat, opField, idxField, dataField, BitVec.extractLsb'_toNat, Nat.shiftRight_eq_div_pow]
  omega

theorem opField_eq_ofNat (c : Beat) : opField c = BitVec.ofNat 4 (c.toNat / 2 ^ 144) := by
  rw [opField, BitVec.extractLsb', Nat.shiftRight_eq_div_pow]

theorem idxField_eq_ofNat (c : Beat) : idxField c = BitVec.ofNat 16 (c.toNat / 2 ^ 128) := by
  rw [idxField, BitVec.extractLsb', Nat.shiftRight_eq_div_pow]

theorem dataField_eq_ofNat (c : Beat) : dataField c = BitVec.ofNat 128 c.toNat := by
  rw [dataField, BitVec.extractLsb', Nat.shiftRight_zero]

/-- A symbol operand placed in the data field stays below 2^8. -/
theorem symData_toNat_lt (sym : Sym) : (symData sym).toNat < 2 ^ 8 := by
  rw [symData, BitVec.toNat_setWidth]
  exact (Nat.mod_le _ _).trans_lt sym.isLt

/-- The symbol operand reads the low 8 bits of the data field and nothing above them (R74). -/
theorem setWidth_eq_of_low_eq {data data' : Value} (h : data.toNat % 2 ^ 8 = data'.toNat % 2 ^ 8) :
    data.setWidth 8 = data'.setWidth 8 := by
  refine BitVec.eq_of_toNat_eq ?_
  rw [BitVec.toNat_setWidth, BitVec.toNat_setWidth, h]

/-- The row a beat is of does not depend on its idx and data fields (R72). -/
theorem mnemonic_decode_packBeat (op : BitVec 4) (idx : Idx) (data : Value) :
    (decode (packBeat op idx data)).mnemonic = (decode (packBeat op 0 0)).mnemonic := by
  rw [decode_packBeat, decode_packBeat]
  split <;> rfl

/-- The mask keeps the opcode field and clears the rest. -/
theorem and_opcodeMask (c : Beat) : c &&& opcodeMask = packBeat (opField c) 0 0 := by
  have hmask : opcodeMask = BitVec.allOnes 4 ++ 0#16 ++ 0#128 := by decide
  conv_lhs => rw [← packBeat_fields c, hmask, packBeat]
  rw [BitVec.and_append, BitVec.and_append, BitVec.and_allOnes, BitVec.and_zero, BitVec.and_zero]
  rfl

theorem mask_of_mem_opcodeTable : ∀ r ∈ opcodeTable, r.mask = opcodeMask := by
  simp [opcodeTable]

/-- Each opcode is the pattern of one row, the row of its command. -/
theorem rows_of_opcode : ∀ op : BitVec 4,
    (opcodeTable.filter fun r => decide (packBeat op 0 0 = r.pattern)).map OpcodeRow.mnemonic =
      [(decode (packBeat op 0 0)).mnemonic] := by
  decide

/-- The opcodes that use neither idx nor data: NOP, the reserved ones and RST. -/
theorem opcode_without_operands :
    ∀ op : BitVec 4, op = 0 ∨ 6 ≤ op.toNat →
      op ∈ ([0, 6, 7, 8, 9, 10, 11, 12, 13, 14, 15] : List (BitVec 4)) := by
  decide

theorem decode_packBeat_without_operands {op : BitVec 4} (h : op = 0 ∨ 6 ≤ op.toNat) (idx : Idx) (data : Value) :
    decode (packBeat op idx data) = decode (packBeat op 0 0) := by
  have hmem := opcode_without_operands op h
  simp only [List.mem_cons, List.not_mem_nil, or_false] at hmem
  rw [decode_packBeat, decode_packBeat]
  obtain rfl | rfl | rfl | rfl | rfl | rfl | rfl | rfl | rfl | rfl | rfl := hmem <;> rfl

end Sys2Proof

namespace Sys2Proof.Machine

/-- Settles O8: constructor by constructor, each canonical beat being a pack of known fields. -/
theorem decodeInvertsEncode : Obligations.DecodeInvertsEncode := decode_encode

/-- Settles O9: a beat is the pack of its fields, so its opcode number selects the arm of the decoder. -/
theorem decodeFollowsTheOpcodeMap : Obligations.DecodeFollowsTheOpcodeMap := by
  intro c op idx data sym
  have hlt : op < 16 := Nat.div_lt_of_lt_mul c.isLt
  have hsym : data.setWidth 8 = sym := BitVec.setWidth_ofNat_of_le (by decide) c.toNat
  have hdecode {k : Nat} (h : op = k) : decode c = decode (packBeat (BitVec.ofNat 4 k) idx data) := by
    conv_lhs => rw [← packBeat_fields c, opField_eq_ofNat, idxField_eq_ofNat, dataField_eq_ofNat]
    rw [← h]
  rw [← hsym]
  refine ⟨hlt, ?_, ?_, ?_, ?_, ?_, ?_, ?_, ?_, ?_, ?_, ?_, ?_, ?_, ?_, ?_, ?_⟩ <;>
    exact fun h => (hdecode h).trans (decode_packBeat _ _ _)

/-- Settles O10: the arm an opcode selects does not mention the fields the opcode does not use, and the encoder packs
zero there. -/
theorem unusedFieldsAreIgnored : Obligations.UnusedFieldsAreIgnored := by
  refine ⟨fun op idx idx' data data' => ⟨fun hop => ?_, fun hop => ?_, fun hop => ?_, fun hop hlow => ?_⟩,
    fun i hi => ?_, fun n => ⟨dataField_packBeat _ _ _, dataField_packBeat _ _ _⟩, fun v => idxField_packBeat _ _ _,
    fun idx sym => ?_⟩
  · rw [decode_packBeat_without_operands hop idx, decode_packBeat_without_operands hop idx']
  · rw [decode_packBeat, decode_packBeat _ _ data']
    obtain rfl | rfl := hop <;> rfl
  · subst hop
    rw [decode_packBeat, decode_packBeat _ idx']
    rfl
  · have hsym := setWidth_eq_of_low_eq hlow
    rw [decode_packBeat, decode_packBeat _ _ data', hsym]
    obtain rfl | rfl := hop <;> rfl
  · have hpack : ∃ op, encode i = packBeat op 0 0 := by
      simp only [List.mem_cons, List.not_mem_nil, or_false] at hi
      obtain rfl | rfl | rfl | rfl | rfl | rfl | rfl | rfl | rfl | rfl | rfl := hi <;> exact ⟨_, rfl⟩
    obtain ⟨op, henc⟩ := hpack
    rw [henc]
    exact ⟨idxField_packBeat _ _ _, dataField_packBeat _ _ _⟩
  · rw [encode, encode, dataField_packBeat, dataField_packBeat]
    exact ⟨symData_toNat_lt sym, symData_toNat_lt sym⟩

/-- Settles O11: which rows cover a beat, and the mnemonic it decodes to, depend on its opcode alone; the sixteen
opcodes are then compared. -/
theorem everyBeatIsOfExactlyOneTableRow : Obligations.EveryBeatIsOfExactlyOneTableRow := by
  intro c
  have hcovers : ∀ r ∈ opcodeTable, r.covers c = decide (packBeat (opField c) 0 0 = r.pattern) := fun r hr => by
    rw [OpcodeRow.covers, mask_of_mem_opcodeTable r hr, and_opcodeMask]
  rw [List.filter_congr hcovers, rows_of_opcode, ← mnemonic_decode_packBeat _ (idxField c) (dataField c),
    packBeat_fields]

/-- Settles O12, by evaluation of the decoder on the nine beats. -/
theorem specWordsDecode : Obligations.SpecWordsDecode := by
  unfold Obligations.SpecWordsDecode
  decide

end Sys2Proof.Machine
end

section
/-! PROOFS. Numerals: the digits of a number and their place value (R55, R113), and a beat written in hexadecimal
(R70). -/

namespace Sys2Proof.Machine

/-- The rightmost of w + 1 digits is the remainder by the base. -/
theorem digitAt_last (b w v : Nat) : digitAt b (w + 1) v w = v % b := by
  rw [digitAt, Nat.add_sub_cancel, Nat.sub_self, pow_zero, Nat.div_one]

/-- The other digits are those of the quotient. -/
theorem digitAt_init {b w j : Nat} (v : Nat) (hj : j < w) : digitAt b (w + 1) v j = digitAt b w (v / b) j := by
  rw [digitAt, digitAt, Nat.div_div_eq_div_mul, ← Nat.pow_succ', show w + 1 - 1 - j = w - 1 - j + 1 by omega]

/-- The last w digits of v have the value of v modulo b to the power w. -/
theorem placeValue_digits (b w v : Nat) : placeValue b ((List.range w).map (digitAt b w v)) = v % b ^ w := by
  induction w generalizing v with
  | zero => rw [pow_zero, Nat.mod_one]; rfl
  | succ w ih =>
    have hinit : (List.range w).map (digitAt b (w + 1) v) = (List.range w).map (digitAt b w (v / b)) :=
      List.map_congr_left fun j hj => digitAt_init v (List.mem_range.1 hj)
    calc placeValue b ((List.range (w + 1)).map (digitAt b (w + 1) v))
      _ = placeValue b ((List.range w).map (digitAt b w (v / b)) ++ [v % b]) := by
        rw [List.range_succ, List.map_append, hinit, List.map_singleton, digitAt_last]
      _ = v / b % b ^ w * b + v % b := by rw [placeValue_append_digit, ih]
      _ = v % b ^ (w + 1) := by rw [Nat.pow_succ', Nat.mod_mul]; ring

/-! ## Hexadecimal digits -/

theorem hexDigitValue_hexDigit : ∀ {n : Nat}, n < 16 → hexDigitValue (hexDigit n) = some n := by
  decide

theorem hexDigitValue_space : hexDigitValue ' ' = none := by
  decide

variable {ds : List Nat}

/-- Written digits read back as their values. -/
theorem hexValue_map_hexDigit (h : ∀ d ∈ ds, d < 16) : hexValue (ds.map hexDigit) = placeValue 16 ds := by
  have hread : (ds.map hexDigit).filterMap hexDigitValue = ds := by
    rw [List.filterMap_map]
    exact (List.filterMap_congr fun d hd => hexDigitValue_hexDigit (h d hd)).trans List.filterMap_some
  rw [hexValue, hread]

theorem all_isHexDigit_map_hexDigit (h : ∀ d ∈ ds, d < 16) :
    ((ds.map hexDigit).all fun c => (hexDigitValue c).isSome) = true := by
  rw [List.all_map, List.all_eq_true]
  intro d hd
  rw [Function.comp_apply, hexDigitValue_hexDigit (h d hd), Option.isSome_some]

/-! ## The written beat -/

/-- The 37 digits of a beat, without the spaces. -/
def beatDigits (c : Beat) : List Nat := (List.range 37).map (digitAt 16 37 c.toNat)

theorem beatDigits_lt (c : Beat) : ∀ d ∈ beatDigits c, d < 16 := by
  intro d hd
  obtain ⟨j, -, rfl⟩ := List.mem_map.1 hd
  exact Nat.mod_lt _ (by decide)

theorem length_beatDigits (c : Beat) : (beatDigits c).length = 37 := by
  rw [beatDigits, List.length_map, List.length_range]

theorem placeValue_beatDigits (c : Beat) : placeValue 16 (beatDigits c) = c.toNat := by
  rw [beatDigits, placeValue_digits]
  exact Nat.mod_eq_of_lt c.isLt

/-- The written beat is its digits, with a space after the opcode and one after the index. -/
theorem beatText_eq (c : Beat) :
    beatText c = ((beatDigits c).map hexDigit).take 1 ++ ' ' :: (((beatDigits c).map hexDigit).drop 1).take 4 ++
      ' ' :: ((beatDigits c).map hexDigit).drop 5 := by
  rw [beatText, beatDigits, List.map_map]
  rfl

/-- Dropping the spaces of three groups of a text without spaces gives the text. -/
theorem filter_groups {h : List Char} (hs : ∀ x ∈ h, x ≠ ' ') :
    (h.take 1 ++ ' ' :: (h.drop 1).take 4 ++ ' ' :: h.drop 5).filter (fun x => decide (x ≠ ' ')) = h := by
  have hkeep {l : List Char} (hl : l ⊆ h) : l.filter (fun x => decide (x ≠ ' ')) = l :=
    List.filter_eq_self.2 fun x hx => decide_eq_true (hs x (hl hx))
  have h1 := hkeep (List.take_subset 1 h)
  have h2 := hkeep (List.Subset.trans (List.take_subset 4 _) (List.drop_subset 1 h))
  have h3 := hkeep (List.drop_subset 5 h)
  rw [List.filter_append, List.filter_append, List.filter_cons_of_neg (by decide), List.filter_cons_of_neg (by decide),
    h1, h2, h3, List.append_assoc, show h.drop 5 = (h.drop 1).drop 4 by rw [List.drop_drop], List.take_append_drop,
    List.take_append_drop]

/-- Settles O13: the spaces drop out, and the digits have the value of the beat. -/
theorem writtenBeatReadsBack : Obligations.WrittenBeatReadsBack := by
  intro c
  have hdigits := beatDigits_lt c
  have hspace : ∀ x ∈ (beatDigits c).map hexDigit, x ≠ ' ' := by
    rintro x hx rfl
    obtain ⟨d, hd, heq⟩ := List.mem_map.1 hx
    have hnone := hexDigitValue_space
    rw [← heq, hexDigitValue_hexDigit (hdigits d hd)] at hnone
    cases hnone
  have hlen : ((beatDigits c).map hexDigit).length = 37 := by rw [List.length_map, length_beatDigits]
  constructor
  · have hvalue : BitVec.ofNat 148 (hexValue ((beatDigits c).map hexDigit)) = c := by
      rw [hexValue_map_hexDigit hdigits, placeValue_beatDigits, BitVec.ofNat_toNat, BitVec.setWidth_eq]
    have hall := all_isHexDigit_map_hexDigit hdigits
    simp only [parseBeat, beatText_eq, filter_groups hspace]
    rw [if_pos ⟨hlen, hall⟩, hvalue]
  · rw [beatText_eq]
    simp [length_beatDigits]

end Sys2Proof.Machine
end

section
/-! PROOFS. The command port and the accept steps: which command a step runs, what a busy block does with a beat, and
which commands report a bad index or opcode (`30_encoding.md` R71, R75, R81). -/

namespace Sys2Proof.Machine

variable {s t : State}

/-- A ready block runs the command of the beat on offer (R81). -/
theorem step_of_offer {p : PortIn} {rest : List PortIn} (hp : s.phase = .idle) (hin : s.inputs = p :: rest)
    (hr : p.reset = false) (hv : p.cmdValid = true) : step s = exec (decode p.cmd) { s with inputs := rest } := by
  simp [step, hin, stepWith, hp, hr, hv]

/-- A busy block takes a step of the core, whatever is on offer (R81). -/
theorem step_of_busy {p : PortIn} {rest : List PortIn} (hp : s.phase ≠ .idle) (hin : s.inputs = p :: rest)
    (hr : p.reset = false) : step s = runStep { s with inputs := inputsAfterBusy p rest } := by
  simp [step, hin, stepWith, hp, hr]

theorem runToReady_of_idle (n : Nat) (hp : s.phase = .idle) : runToReady n s = .next s := by
  cases n with
  | zero => rfl
  | succ n => rw [runToReady, if_pos hp]

/-- The host that waits for a ready block finds it as it is. -/
theorem readyState_of_idle (hp : s.phase = .idle) : readyState s = s := by
  rw [readyState, runToReady_of_idle 300 hp, ← hp]

theorem withFetchWord_of_idle (hp : s.phase = .idle) {nbits w : Nat} (hw : w < 2 ^ nbits) :
    s.withFetchWord nbits w = { s with inputs := PortIn.offer (BitVec.ofNat 148 w) :: s.inputs } := by
  rw [State.withFetchWord, readyState_of_idle hp, Nat.mod_eq_of_lt hw]

theorem decodeTableWord_of_lt {nbits w : Nat} (hbits : 148 ≤ nbits) (hw : w < 2 ^ 148) :
    decodeTableWord nbits w = some (decode (BitVec.ofNat 148 w)) := by
  have hlt : w < 2 ^ nbits := hw.trans_le (Nat.pow_le_pow_right (by decide) hbits)
  rw [decodeTableWord, Nat.mod_eq_of_lt hlt, decodeWord, if_pos hw]

/-- The next step of a ready block runs the command of the word placed for it. -/
theorem step_withFetchWord (hp : s.phase = .idle) {nbits w : Nat} (hw : w < 2 ^ nbits) :
    step (s.withFetchWord nbits w) = exec (decode (BitVec.ofNat 148 w)) s := by
  rw [withFetchWord_of_idle hp hw]
  exact step_of_offer (s := { s with inputs := PortIn.offer (BitVec.ofNat 148 w) :: s.inputs })
    (p := PortIn.offer (BitVec.ofNat 148 w)) hp rfl rfl rfl

/-- Settles O14: the handshake accepts the first offer of a ready block, and `withFetchWord` places one. -/
theorem stepRunsTheDecodedCommand : Obligations.StepRunsTheDecodedCommand := by
  refine ⟨fun s p rest hp hin hr hv => step_of_offer hp hin hr hv, fun s nbits w hp hbits hw => ⟨?_, ?_⟩⟩
  · exact step_withFetchWord hp (hw.trans_le (Nat.pow_le_pow_right (by decide) hbits))
  · exact decodeTableWord_of_lt hbits hw

/-- Settles O15: a busy block takes a step of the core, which does not look at what the host will drive. -/
theorem busyBlockAcceptsNoBeat : Obligations.BusyBlockAcceptsNoBeat := by
  intro s p rest hp hin hr
  have hstep : step s =
      andThen (step { s with inputs := [] }) fun t => .next { t with inputs := inputsAfterBusy p rest } := by
    rw [step_of_busy hp hin hr, step_of_quiet rfl]
    exact runStep_withInputs { s with inputs := [] } _
  refine ⟨fun t ht => ?_, fun f hf => ?_⟩
  · simp only [hstep, ht, andThen, inputsAfterBusy, Bool.and_eq_true]
  · rw [hstep, hf, andThen]

/-- Settles O20: each arm of `exec` answers on every branch. -/
theorem everyCommandIsAnswered : Obligations.EveryCommandIsAnswered := exec_answers

/-- The codes a command with legal operands can report in its accept step (R71). -/
theorem exec_err_of_wellFormed {i : Instr} (hw : i.wellFormed = true) (h : exec i s = .next t) :
    t.err = .ok ∨ t.err = .noCfg ∨ t.err = .locked := by
  cases i
  case wrsym idx sym =>
    have hidx : idx.toNat < 256 := of_decide_eq_true hw
    obtain ⟨-, rfl⟩ | ⟨-, hge, -⟩ | ⟨-, -, rfl⟩ := execWrsym_cases h
    · exact .inr (.inr rfl)
    · omega
    · exact .inl rfl
  case wrin idx sym =>
    have hidx : idx.toNat < 32 := of_decide_eq_true hw
    obtain ⟨hge, -⟩ | ⟨-, rfl⟩ := execWrin_cases h
    · omega
    · exact .inl rfl
  case cfg n =>
    obtain ⟨-, rfl⟩ | ⟨-, rfl⟩ := execCfg_cases h
    · exact .inr (.inr rfl)
    · exact .inl rfl
  case enc v =>
    obtain ⟨-, rfl⟩ | ⟨-, rfl⟩ := execEnc_cases h
    · exact .inr (.inl rfl)
    · exact .inl rfl
  case dec n =>
    obtain ⟨-, rfl⟩ | ⟨-, rfl⟩ := execDec_cases h
    · exact .inr (.inl rfl)
    · exact .inl rfl
  case nop | rst => cases h; exact .inl rfl
  all_goals cases hw

/-- The codes a command with an index out of range or a reserved opcode can report (R59, R75). -/
theorem exec_err_of_not_wellFormed {i : Instr} (hw : i.wellFormed = false) (h : exec i s = .next t) :
    t.err = .badIdx ∨ t.err = .illCmd ∨ t.err = .locked := by
  cases i
  case wrsym idx sym =>
    have hidx : ¬idx.toNat < 256 := of_decide_eq_false hw
    obtain ⟨-, rfl⟩ | ⟨-, -, rfl⟩ | ⟨-, hlt, -⟩ := execWrsym_cases h
    · exact .inr (.inr rfl)
    · exact .inl rfl
    · exact absurd hlt hidx
  case wrin idx sym =>
    have hidx : ¬idx.toNat < 32 := of_decide_eq_false hw
    obtain ⟨-, rfl⟩ | ⟨hlt, -⟩ := execWrin_cases h
    · exact .inl rfl
    · exact absurd hlt hidx
  case nop | cfg | enc | dec | rst => cases hw
  all_goals cases h; exact .inr (.inl rfl)

/-- Settles O30: the codes of the two kinds of commands, arm by arm. -/
theorem onlyIllFormedCommandsReportBadIndexOrOpcode : Obligations.OnlyIllFormedCommandsReportBadIndexOrOpcode := by
  intro i s t h
  refine ⟨fun hw => ?_, fun hw => ?_⟩
  · obtain he | he | he := exec_err_of_wellFormed hw h <;> simp [he]
  · obtain he | he | he := exec_err_of_not_wellFormed hw h <;> simp [he]

end Sys2Proof.Machine
end

section
/-! PROOFS. The configuration family step by step (`40_configuration.md` R91 to R96, R98): the accept steps of WRSYM and
CFG, the run steps of CFG, and the width of a radix. -/

namespace Sys2Proof.Machine

variable {s t : State}

/-! ## The accept steps of WRSYM and CFG -/

theorem exec_wrsym_of_locked (hc : s.cfgOk = true) (idx : Idx) (sym : Sym) :
    exec (.wrsym idx sym) s = .next (s.acceptFault .wrsym .locked idx) :=
  if_pos hc

theorem exec_wrsym_of_badIndex (hc : s.cfgOk = false) {idx : Idx} (hi : 256 ≤ idx.toNat) (sym : Sym) :
    exec (.wrsym idx sym) s = .next (s.acceptFault .wrsym .badIdx idx) := by
  have hbad : fwdIndexOk idx = false := decide_eq_false (Nat.not_lt_of_le hi)
  simp [exec, execWrsym, hc, hbad]

theorem exec_wrsym_of_index (hc : s.cfgOk = false) {idx : Idx} (hi : idx.toNat < 256) (sym : Sym) :
    exec (.wrsym idx sym) s = .next ((s.setFwd idx.toNat sym).acceptOk .wrsym) := by
  have hok : fwdIndexOk idx = true := decide_eq_true hi
  simp [exec, execWrsym, hc, hok]

theorem exec_cfg_of_locked (hc : s.cfgOk = true) (n : Idx) :
    exec (.cfg n) s = .next (s.acceptFault .cfg .locked 0) :=
  if_pos hc

theorem exec_cfg_of_unlocked (hc : s.cfgOk = false) (n : Idx) :
    exec (.cfg n) s = .next ((({ s with len := n }).clearRev.acceptOk .cfg).startRun .cfgRun) := by
  simp [exec, execCfg, hc]

/-- The symbol operand is the data field modulo 2^8 (R73, R74). -/
theorem setWidth_eq_of_mod {data : Value} {sym : Sym} (h : data.toNat % 2 ^ 8 = sym.toNat) : data.setWidth 8 = sym :=
  BitVec.eq_of_toNat_eq ((BitVec.toNat_setWidth 8 data).trans h)

/-- Settles O24: the three branches of the accept step, and a read of FWD after the write. -/
theorem wrsymWritesOneForwardEntry : Obligations.WrsymWritesOneForwardEntry := by
  intro idx sym s
  refine ⟨fun hc => exec_wrsym_of_locked hc idx sym, fun hc hi => exec_wrsym_of_badIndex hc hi sym,
    fun hc hi => ⟨_, exec_wrsym_of_index hc hi sym, rfl, s.fwdAt_setFwd idx.toNat sym⟩, fun data hd => ?_⟩
  rw [← setWidth_eq_of_mod hd]
  exact decode_packBeat 1 idx data

/-- Settles O25: the two branches of the accept step; the cleared REV answers none. -/
theorem cfgStartsTheScan : Obligations.CfgStartsTheScan := fun n _ =>
  ⟨fun hc => exec_cfg_of_locked hc n, fun hc => ⟨_, exec_cfg_of_unlocked hc n, rfl, fun _ => rfl⟩,
    fun data => decode_packBeat 2 n data⟩

/-! ## The run steps of CFG -/

theorem zextIdx_toNat (c : BitVec 9) : (zextIdx c).toNat = c.toNat :=
  BitVec.toNat_setWidth_of_le (by decide)

section RunSteps

variable (hp : s.phase = .cfgRun) (hin : s.inputs = [])
include hp hin

theorem step_eq_cfgRunStep : step s = cfgRunStep s := by
  rw [step_of_quiet hin, runStep, hp]

theorem step_cfg_few (h0 : s.cnt = 0) (hlen : s.len.toNat < 16) : step s = .next (s.complete .alphaFew s.len) := by
  rw [step_eq_cfgRunStep hp hin, cfgRunStep, if_pos ⟨h0, hlen⟩]

theorem step_cfg_many (h0 : s.cnt = 0) (hlen : 256 < s.len.toNat) : step s = .next (s.complete .alphaMany s.len) := by
  rw [step_eq_cfgRunStep hp hin, cfgRunStep, if_neg (by omega), if_pos ⟨h0, hlen⟩]

section InRange

variable (h16 : 16 ≤ s.len.toNat) (h256 : s.len.toNat ≤ 256)
include h16 h256

theorem step_eq_cfgScan (hlt : s.cnt.toNat < s.len.toNat) : step s = cfgScan s := by
  rw [step_eq_cfgRunStep hp hin, cfgRunStep, if_neg (by omega), if_neg (by omega), if_neg (by omega), if_pos hlt]

theorem step_cfg_duplicate (hlt : s.cnt.toNat < s.len.toNat) (hd : s.revAt (s.fwdAt s.cnt.toNat) ≠ none) :
    step s = .next (s.clearRev.complete .alphaDup (zextIdx s.cnt)) := by
  obtain ⟨i, hi⟩ := Option.ne_none_iff_exists'.1 hd
  simp only [step_eq_cfgScan hp hin h16 h256 hlt, cfgScan, hi]

theorem step_cfg_scan (hlt : s.cnt.toNat < s.len.toNat) (hn : s.revAt (s.fwdAt s.cnt.toNat) = none) :
    step s = .next (s.setRev (s.fwdAt s.cnt.toNat) (low8 s.cnt)).countStep := by
  simp only [step_eq_cfgScan hp hin h16 h256 hlt, cfgScan, hn]

theorem step_cfg_lock (heq : s.cnt.toNat = s.len.toNat) :
    step s = .next ((s.lockAlphabet s.len.toNat).complete .ok 0) := by
  rw [step_eq_cfgRunStep hp hin, cfgRunStep, if_neg (by omega), if_neg (by omega), if_neg (by omega), if_neg (by omega),
    if_pos heq]

end InRange

end RunSteps

/-- Settles O32: the two count checks of CNT = 0. -/
theorem cfgChecksTheCount : Obligations.CfgChecksTheCount := fun _ hp hin h0 =>
  ⟨step_cfg_few hp hin h0, step_cfg_many hp hin h0⟩

/-- REV after the scan of a new symbol: its entry is CNT, every other entry stays. -/
theorem State.revAt_scan (hc : s.cnt.toNat < 256) (sym : Sym) :
    ((s.setRev (s.fwdAt s.cnt.toNat) (low8 s.cnt)).countStep.revAt sym).map BitVec.toNat =
      if sym = s.fwdAt s.cnt.toNat then some s.cnt.toNat else (s.revAt sym).map BitVec.toNat := by
  have hread : (s.setRev (s.fwdAt s.cnt.toNat) (low8 s.cnt)).countStep.revAt sym = _ := s.revAt_setRev _ _ sym
  rw [hread, apply_ite (Option.map BitVec.toNat), Option.map_some, low8_toNat hc]

/-- Settles O33: the two arms of the scan step; CNT is below 256, so its low eight bits are all of it. -/
theorem cfgScansOneSymbol : Obligations.CfgScansOneSymbol := by
  intro s hp hin h16 h256 hlt
  have hcnt : s.cnt.toNat < 256 := by omega
  exact ⟨fun hd => ⟨_, step_cfg_duplicate hp hin h16 h256 hlt hd, fun _ => rfl, zextIdx_toNat s.cnt, rfl⟩,
    fun hn => ⟨_, step_cfg_scan hp hin h16 h256 hlt hn, cnt_succ_toNat hcnt.le, rfl, State.revAt_scan hcnt⟩⟩

/-- Settles O34: the finish step; a radix of at most 256 fits B, and a width of at most 32 fits W. -/
theorem cfgFinishLocksTheAlphabet : Obligations.CfgFinishLocksTheAlphabet := by
  intro s hp hin h16 h256 heq
  have hw : width s.len.toNat < 2 ^ 6 := (width_le h16).trans_lt (by decide)
  exact ⟨_, step_cfg_lock hp hin h16 h256 heq, toNat_ofNat_of_lt (by omega), toNat_ofNat_of_lt hw, rfl⟩

/-! ## The width of a radix (R98) -/

/-- The exponent that reaches 2^128, when the one before it does not, is the width. -/
theorem width_eq_of_bounds {b w : Nat} (h16 : 16 ≤ b) (hreach : 2 ^ 128 ≤ b ^ w) (hbelow : b ^ (w - 1) < 2 ^ 128) :
    width b = w := by
  obtain ⟨hwidth, hleast⟩ := width_spec h16
  refine Nat.le_antisymm (Nat.le_of_not_lt fun hlt => ?_) (Nat.le_of_not_lt fun hlt => ?_)
  · exact absurd (hleast w hlt) (Nat.not_lt_of_le hreach)
  · have hpow : b ^ width b ≤ b ^ (w - 1) := Nat.pow_le_pow_right (by omega) (by omega)
    omega

theorem le_width {b : Nat} (h16 : 16 ≤ b) (h256 : b ≤ 256) : 16 ≤ width b := by
  by_contra hlt
  have hreach := (width_spec h16).1
  have hpow : b ^ width b ≤ 256 ^ 15 :=
    (Nat.pow_le_pow_left h256 _).trans (Nat.pow_le_pow_right (by decide) (by omega))
  omega

/-- Each row's exponent is right for its whole interval, because it reaches 2^128 at the first radix and the one before
it does not at the last. -/
theorem widthTable_bounds :
    ∀ r ∈ widthTable, 16 ≤ r.1 ∧ 2 ^ 128 ≤ r.1 ^ r.2.2 ∧ r.2.1 ^ (r.2.2 - 1) < 2 ^ 128 := by
  decide

theorem width_of_mem_widthTable {b : Nat} {r : Nat × Nat × Nat} (hr : r ∈ widthTable) (hfirst : r.1 ≤ b)
    (hlast : b ≤ r.2.1) : width b = r.2.2 := by
  obtain ⟨h16, hreach, hbelow⟩ := widthTable_bounds r hr
  exact width_eq_of_bounds (h16.trans hfirst) (hreach.trans (Nat.pow_le_pow_left hfirst _))
    ((Nat.pow_le_pow_left hlast _).trans_lt hbelow)

theorem exists_mem_widthTable {b : Nat} (h16 : 16 ≤ b) (h256 : b ≤ 256) : ∃ r ∈ widthTable, r.1 ≤ b ∧ b ≤ r.2.1 := by
  simp only [widthTable, List.mem_cons, List.not_mem_nil, or_false, exists_eq_or_imp, exists_eq_left]
  omega

/-- Settles O51: the search stops at the least exponent that reaches 2^128, and the table's rows are decided at the ends
of their intervals. -/
theorem widthIsTheLeastExponent : Obligations.WidthIsTheLeastExponent := by
  intro b h16 h256
  obtain ⟨hreach, hleast⟩ := width_spec h16
  have hge := le_width h16 h256
  exact ⟨hreach, hleast, hleast _ (by omega), pow_width_lt h16 h256, hge, width_le h16,
    exists_mem_widthTable h16 h256, fun _ hr hfirst hlast => width_of_mem_widthTable hr hfirst hlast⟩

/-! ## The alphabet lock (R100) -/

/-- The block t has the alphabet of s. -/
def State.KeepsAlphabet (s t : State) : Prop :=
  t.fwd = s.fwd ∧ t.rev = s.rev ∧ t.b = s.b ∧ t.w = s.w ∧ t.cfgOk = s.cfgOk

theorem AcceptStep.keepsAlphabet_or_rst {i : Instr} (h : AcceptStep s i t) (hc : s.cfgOk = true) :
    s.KeepsAlphabet t ∨ i = .rst ∧ t = s.toReset := by
  cases h with
  | rst => exact .inr ⟨rfl, rfl⟩
  | wrsym _ _ hopen | cfg _ hopen => rw [hc] at hopen; cases hopen
  | _ => exact .inl ⟨rfl, rfl, rfl, rfl, rfl⟩

/-- Only the run steps of CFG write the alphabet. -/
theorem RunStep.keepsAlphabet (h : RunStep s t) (hp : s.phase ≠ .cfgRun) : s.KeepsAlphabet t := by
  cases h with
  | cfgDuplicate hrun | cfgScan hrun | cfgLock hrun => exact absurd hrun hp
  | _ => exact ⟨rfl, rfl, rfl, rfl, rfl⟩

/-- A configured block of the invariant runs no CFG (R44 (f)). -/
theorem Inv.phase_ne_cfgRun (h : Inv s) (hc : s.cfgOk = true) : s.phase ≠ .cfgRun := fun hp => by
  obtain ⟨hopen, -⟩ := h.cfgRunning hp
  rw [hc] at hopen
  cases hopen

theorem State.toReset_hasResetValues (s : State) : s.toReset.HasResetValues :=
  { State.reset_hasResetValues with }

/-- Settles O5: of the agents of a step only a reset writes the alphabet of a configured block, since WRSYM and CFG are
refused and no CFG runs. -/
theorem alphabetIsLockedUntilReset : Obligations.AlphabetIsLockedUntilReset := by
  intro s h hc
  constructor
  · rintro i (⟨idx, sym, rfl⟩ | ⟨n, rfl⟩)
    · exact ⟨_, exec_wrsym_of_locked hc idx sym, rfl⟩
    · exact ⟨_, exec_cfg_of_locked hc n, rfl⟩
  · intro t hstep
    rw [← hc]
    obtain ⟨l, ⟨hr, rfl⟩ | ⟨i, hi, ha⟩ | hr⟩ := step_agents hstep
    · exact .inr ⟨hr, State.toReset_hasResetValues _⟩
    · obtain hkeep | ⟨rfl, rfl⟩ := ha.keepsAlphabet_or_rst hc
      · exact .inl hkeep
      · exact .inr ⟨.inr hi, State.toReset_hasResetValues _⟩
    · exact .inl (hr.keepsAlphabet (h.phase_ne_cfgRun hc))

end Sys2Proof.Machine
end

section
/-! PROOFS. CFG from accept to completion (`40_configuration.md` R92 to R97): the scan carries the state of its first k
symbols along, and ends in one of five outcomes. -/

namespace Sys2Proof.Machine

variable {s t : State} {n : Idx}

/-- The symbol `FWD[i]` stands at an earlier index too (R95). -/
def State.RepeatsAt (s : State) (i : Nat) : Prop := ∃ j, j < i ∧ s.fwdAt i = s.fwdAt j

theorem State.not_repeatsAt {i : Nat} : ¬s.RepeatsAt i ↔ ∀ j, j < i → s.fwdAt i ≠ s.fwdAt j := by
  simp only [State.RepeatsAt, not_exists, not_and, ne_eq]

theorem State.reverseMap_succ (s : State) (k : Nat) :
    s.reverseMap (k + 1) = (s.reverseMap k).write (s.fwdAt k).toNat (BitVec.ofNat 8 k) := by
  rw [State.reverseMap, List.range_succ, List.foldl_append]
  rfl

/-- The reverse map of the first k symbols has no entry for a symbol that is none of them. -/
theorem State.read?_reverseMap_eq_none_iff (s : State) (k : Nat) (sym : Sym) :
    (s.reverseMap k).read? sym.toNat = none ↔ ∀ j, j < k → sym ≠ s.fwdAt j := by
  induction k with
  | zero => exact iff_of_true rfl fun j hj => absurd hj (Nat.not_lt_zero j)
  | succ k ih =>
    rw [State.reverseMap_succ, Memory.read?_write, Nat.forall_lt_succ_right, ← ih]
    split
    case isTrue heq => simp [BitVec.toNat_inj.1 heq]
    case isFalse hne => simp [mt (congrArg BitVec.toNat) hne]

/-- The block while a CFG n runs on s, the first k symbols being scanned (R95). -/
def State.cfgScanned (s : State) (n : Idx) (k : Nat) : State :=
  { s with opk := .cfg, err := .ok, errInfo := 0, len := n, phase := .cfgRun, rev := s.reverseMap k,
           cnt := BitVec.ofNat 9 k }

/-- The accept step leaves the block with nothing scanned (R92). -/
theorem State.startRun_eq_cfgScanned (s : State) (n : Idx) :
    (({ s with len := n }).clearRev.acceptOk .cfg).startRun .cfgRun = s.cfgScanned n 0 :=
  rfl

theorem State.cfgScanned_cnt {k : Nat} (hk : k ≤ 256) : (s.cfgScanned n k).cnt.toNat = k :=
  toNat_ofNat_of_lt (by omega)

/-- The scan finds its next symbol in REV exactly when that symbol repeats an earlier one. -/
theorem State.cfgScanned_revAt_eq_none_iff {k : Nat} (hk : k ≤ 256) :
    (s.cfgScanned n k).revAt ((s.cfgScanned n k).fwdAt (s.cfgScanned n k).cnt.toNat) = none ↔ ¬s.RepeatsAt k := by
  rw [State.cfgScanned_cnt hk, State.not_repeatsAt]
  exact s.read?_reverseMap_eq_none_iff k (s.fwdAt k)

/-- The scan of a new symbol goes on to the state of one symbol more. -/
theorem State.cfgScanned_succ {k : Nat} (hk : k ≤ 256) :
    ((s.cfgScanned n k).setRev ((s.cfgScanned n k).fwdAt (s.cfgScanned n k).cnt.toNat)
      (low8 (s.cfgScanned n k).cnt)).countStep = s.cfgScanned n (k + 1) := by
  have hlow : low8 (BitVec.ofNat 9 k) = BitVec.ofNat 8 k := BitVec.setWidth_ofNat_of_le (by decide) k
  have hcnt : BitVec.ofNat 9 k + 1 = BitVec.ofNat 9 (k + 1) := (BitVec.ofNat_add k 1).symm
  rw [State.cfgScanned_cnt hk, State.cfgScanned, State.cfgScanned, State.reverseMap_succ, ← hlow, ← hcnt]
  rfl

/-- The outcomes of a CFG n that a ready block s accepts (R97). -/
inductive CfgOutcome (s : State) (n : Idx) : State → Prop
  /-- R92, R100. -/
  | locked (hc : s.cfgOk = true) : CfgOutcome s n (s.acceptFault .cfg .locked 0)
  /-- R93. -/
  | few (hc : s.cfgOk = false) (hn : n.toNat < 16) : CfgOutcome s n ((s.cfgScanned n 0).complete .alphaFew n)
  /-- R94. -/
  | many (hc : s.cfgOk = false) (hn : 256 < n.toNat) : CfgOutcome s n ((s.cfgScanned n 0).complete .alphaMany n)
  /-- R95, i the least index of a repeated symbol. -/
  | duplicate (hc : s.cfgOk = false) (h16 : 16 ≤ n.toNat) (h256 : n.toNat ≤ 256) (i : Nat) (hi : i < n.toNat)
      (hrep : s.RepeatsAt i) (hfirst : ∀ k, k < i → ¬s.RepeatsAt k) :
      CfgOutcome s n ((s.cfgScanned n i).clearRev.complete .alphaDup (zextIdx (s.cfgScanned n i).cnt))
  /-- R96. -/
  | built (hc : s.cfgOk = false) (h16 : 16 ≤ n.toNat) (h256 : n.toNat ≤ 256)
      (hdistinct : ∀ k, k < n.toNat → ¬s.RepeatsAt k) :
      CfgOutcome s n (((s.cfgScanned n n.toNat).lockAlphabet n.toNat).complete .ok 0)

/-! ## The host's wait while the scan runs -/

theorem waitReady_step {fuel : Nat} (hp : s.phase ≠ .idle) (hstep : step s = .next t) :
    waitReady (fuel + 1) s = waitReady fuel t := by
  rw [waitReady, if_neg hp, hstep, andThen]

/-- A step that completes the command ends the wait. -/
theorem waitReady_complete {fuel : Nat} {e : ErrCode} {x : Idx} (hp : s.phase ≠ .idle)
    (hstep : step s = .next (t.complete e x)) : waitReady (fuel + 1) s = .next (t.complete e x) :=
  (waitReady_step hp hstep).trans (waitReady_of_idle rfl)

theorem State.cfgScanned_busy (s : State) (n : Idx) (k : Nat) : (s.cfgScanned n k).phase ≠ .idle :=
  Phase.noConfusion

/-- Over k distinct symbols the host waits k steps. -/
theorem waitReady_cfgScanned {k fuel : Nat} (hin : s.inputs = []) (h16 : 16 ≤ n.toNat) (h256 : n.toNat ≤ 256)
    (hk : k ≤ n.toNat) (hnew : ∀ i, i < k → ¬s.RepeatsAt i) :
    waitReady (k + fuel) (s.cfgScanned n 0) = waitReady fuel (s.cfgScanned n k) := by
  induction k generalizing fuel with
  | zero => rw [Nat.zero_add]
  | succ k ih =>
    have hk256 : k ≤ 256 := by omega
    have hlt : (s.cfgScanned n k).cnt.toNat < n.toNat := by rw [State.cfgScanned_cnt hk256]; exact hk
    have hstep := step_cfg_scan (s := s.cfgScanned n k) rfl hin h16 h256 hlt
      ((State.cfgScanned_revAt_eq_none_iff hk256).2 (hnew k (Nat.lt_succ_self k)))
    rw [State.cfgScanned_succ hk256] at hstep
    rw [Nat.add_assoc, Nat.add_comm 1 fuel, ih (by omega) fun i hi => hnew i (by omega),
      waitReady_step (s.cfgScanned_busy n k) hstep]

/-- The host that waits for an accepted CFG finds one of the outcomes. -/
theorem waitReady_cfgOutcome (hin : s.inputs = []) (hc : s.cfgOk = false) (n : Idx) :
    ∃ t, waitReady 300 (s.cfgScanned n 0) = .next t ∧ CfgOutcome s n t := by
  have hbusy := s.cfgScanned_busy n
  obtain hfew | h16 := Nat.lt_or_ge n.toNat 16
  · exact ⟨_, waitReady_complete (hbusy 0) (step_cfg_few rfl hin rfl hfew), .few hc hfew⟩
  obtain hmany | h256 := Nat.lt_or_ge 256 n.toNat
  · exact ⟨_, waitReady_complete (hbusy 0) (step_cfg_many rfl hin rfl hmany), .many hc hmany⟩
  have scanned {k : Nat} (hk : k ≤ n.toNat) (hnew : ∀ i, i < k → ¬s.RepeatsAt i) :
      waitReady 300 (s.cfgScanned n 0) = waitReady (299 - k + 1) (s.cfgScanned n k) := by
    rw [← waitReady_cfgScanned hin h16 h256 hk hnew, show k + (299 - k + 1) = 300 by omega]
  by_cases hrep : ∃ i, i < n.toNat ∧ s.RepeatsAt i
  · classical
    obtain ⟨hi, hat⟩ := Nat.find_spec hrep
    have hfirst : ∀ k, k < Nat.find hrep → ¬s.RepeatsAt k := fun k hk hk' =>
      Nat.find_min hrep hk ⟨hk.trans hi, hk'⟩
    have hi256 : Nat.find hrep ≤ 256 := by omega
    have hlt : (s.cfgScanned n (Nat.find hrep)).cnt.toNat < n.toNat := by rwa [State.cfgScanned_cnt hi256]
    have hfound := (State.cfgScanned_revAt_eq_none_iff (n := n) hi256).not.2 (not_not_intro hat)
    rw [scanned hi.le hfirst]
    exact ⟨_, waitReady_complete (hbusy _) (step_cfg_duplicate rfl hin h16 h256 hlt hfound),
      .duplicate hc h16 h256 _ hi hat hfirst⟩
  · have hdistinct : ∀ k, k < n.toNat → ¬s.RepeatsAt k := fun k hk hat => hrep ⟨k, hk, hat⟩
    rw [scanned (Nat.le_refl _) hdistinct]
    exact ⟨_, waitReady_complete (hbusy _) (step_cfg_lock rfl hin h16 h256 (State.cfgScanned_cnt h256)),
      .built hc h16 h256 hdistinct⟩

/-- A CFG issued to a ready block ends in one of the outcomes. -/
theorem issue_cfg_outcome (hs : s.ReadyQuiet) (n : Idx) :
    ∃ t, issue (encode (.cfg n)) s = .next t ∧ CfgOutcome s n t := by
  obtain ⟨hp, hin⟩ := hs
  rw [issue_of_idle hp, decode_encode, withInputs_nil hin]
  cases hc : s.cfgOk with
  | true =>
    rw [exec_cfg_of_locked hc, andThen]
    exact ⟨_, waitReady_of_idle hp, .locked hc⟩
  | false =>
    rw [exec_cfg_of_unlocked hc, State.startRun_eq_cfgScanned, andThen]
    exact waitReady_cfgOutcome hin hc n

/-- A command issued to a ready block of the invariant ends on a block of the invariant. -/
theorem Inv.after_issue {c : Beat} (h : Inv s) (hs : s.ReadyQuiet) (hissue : issue c s = .next t) :
    Inv t ∧ t.phase = .idle := by
  obtain ⟨hp, hin⟩ := hs
  obtain ⟨u, hu⟩ := exec_answers (decode c) s
  obtain ⟨r, hr, hidle, -, -, hinv, -⟩ :=
    (h.after_acceptStep hp (.of_exec hu)).completes ((exec_inputs hu).trans hin) (State.stepsLeft_lt u)
  rw [issue_of_idle hp, withInputs_nil hin, hu, andThen, hr] at hissue
  cases hissue
  exact ⟨hinv, hidle⟩

/-! ## What the outcomes say (R97) -/

namespace CfgOutcome

/-- What CFG never changes, and what it always writes. -/
theorem frame (h : CfgOutcome s n t) :
    t.opk = .cfg ∧ t.fwd = s.fwd ∧ t.ibuf = s.ibuf ∧ t.obuf = s.obuf ∧ t.acc = s.acc ∧ t.resV = s.resV ∧
      t.obufV = s.obufV ∧ t.resets = s.resets := by
  cases h <;> exact ⟨rfl, rfl, rfl, rfl, rfl, rfl, rfl, rfl⟩

theorem eq_of_locked (h : CfgOutcome s n t) (hc : s.cfgOk = true) : t = s.acceptFault .cfg .locked 0 := by
  cases h with
  | locked => rfl
  | few hopen | many hopen | duplicate hopen | built hopen => rw [hc] at hopen; cases hopen

section Unlocked

variable (h : CfgOutcome s n t) (hc : s.cfgOk = false)
include h hc

theorem len : t.len = n := by
  cases h with
  | locked hlock => rw [hc] at hlock; cases hlock
  | few | many | duplicate | built => rfl

/-- A CFG that fails leaves the block unconfigured. -/
theorem cfgOk_of_err (herr : t.err ≠ .ok) : t.cfgOk = false := by
  cases h with
  | locked => exact hc
  | few | many | duplicate => exact hc
  | built => exact absurd rfl herr

theorem eq_of_few (hn : n.toNat < 16) : t = (s.cfgScanned n 0).complete .alphaFew n := by
  cases h with
  | locked hlock => rw [hc] at hlock; cases hlock
  | few => rfl
  | many | duplicate | built => omega

theorem eq_of_many (hn : 256 < n.toNat) : t = (s.cfgScanned n 0).complete .alphaMany n := by
  cases h with
  | locked hlock => rw [hc] at hlock; cases hlock
  | many => rfl
  | few | duplicate | built => omega

section InRange

variable (h16 : 16 ≤ n.toNat) (h256 : n.toNat ≤ 256)
include h16 h256

theorem eq_of_repeat (hrep : ∃ i, i < n.toNat ∧ s.RepeatsAt i) :
    ∃ i, i < n.toNat ∧ s.RepeatsAt i ∧ (∀ k, k < i → ¬s.RepeatsAt k) ∧
      t = (s.cfgScanned n i).clearRev.complete .alphaDup (zextIdx (s.cfgScanned n i).cnt) := by
  cases h with
  | locked hlock => rw [hc] at hlock; cases hlock
  | few | many => omega
  | duplicate _ _ _ i hi hat hfirst => exact ⟨i, hi, hat, hfirst, rfl⟩
  | built _ _ _ hdistinct =>
    obtain ⟨i, hi, hat⟩ := hrep
    exact absurd hat (hdistinct i hi)

theorem eq_of_distinct (hdistinct : ∀ k, k < n.toNat → ¬s.RepeatsAt k) :
    t = ((s.cfgScanned n n.toNat).lockAlphabet n.toNat).complete .ok 0 := by
  cases h with
  | locked hlock => rw [hc] at hlock; cases hlock
  | few | many => omega
  | duplicate _ _ _ i hi hat => exact absurd hat (hdistinct i hi)
  | built => rfl

end InRange

end Unlocked

end CfgOutcome

/-- Settles O43: the scan ends in one of the outcomes; the invariant of the state it ends in gives the inverse map of a
built alphabet and the empty one of a failed CFG. -/
theorem cfgReportsTheFirstCause : Obligations.CfgReportsTheFirstCause := by
  intro n s h hs
  obtain ⟨t, hissue, hout⟩ := issue_cfg_outcome hs n
  obtain ⟨hinv, hidle⟩ := h.after_issue hs hissue
  obtain ⟨hopk, hfwd, hibuf, hobuf, hacc, hresV, hobufV, -⟩ := hout.frame
  refine ⟨t, hissue, hopk, hidle, hfwd, hibuf, hobuf, hacc, hresV, hobufV, hout.eq_of_locked, hout.len,
    fun hc hn => ?_, fun hc hn => ?_, fun hc h16 h256 hrep => ?_, fun hc h16 h256 hdistinct => ?_, fun hc herr => ?_⟩
  · rw [hout.eq_of_few hc hn]
    exact ⟨rfl, rfl, rfl⟩
  · rw [hout.eq_of_many hc hn]
    exact ⟨rfl, rfl, rfl⟩
  · obtain ⟨i, j, hj, hi, heq⟩ := hrep
    obtain ⟨d, hd, hat, hfirst, rfl⟩ := hout.eq_of_repeat hc h16 h256 ⟨i, hi, j, hj, heq⟩
    have hcnt : (s.cfgScanned n d).cnt.toNat = d := State.cfgScanned_cnt (by omega)
    simp only [State.complete_err, State.complete_errInfo, State.complete_cnt, State.clearRev_cnt, zextIdx_toNat, hcnt]
    exact ⟨trivial, trivial, hd, hat, fun i j hj hi => State.not_repeatsAt.1 (hfirst i hi) j hj⟩
  · obtain rfl := hout.eq_of_distinct hc h16 h256 fun k hk => State.not_repeatsAt.2 fun j hj => hdistinct k j hj hk
    have hb : (BitVec.ofNat 9 n.toNat).toNat = n.toNat := toNat_ofNat_of_lt (by omega)
    have hcnt : (s.cfgScanned n n.toNat).cnt.toNat = n.toNat := State.cfgScanned_cnt h256
    obtain ⟨-, -, hw, hrev⟩ := hinv.configured rfl
    simp only [State.complete_b, State.lockAlphabet_b, hb] at hw hrev
    exact ⟨rfl, rfl, rfl, hb, hw, hcnt, hrev⟩
  · have hopen := hout.cfgOk_of_err hc herr
    obtain ⟨hb, hw⟩ := hinv.unconfigured hopen
    exact ⟨hopen, hb, hw, fun sym => by rw [State.revAt, hinv.revEmpty hopen hidle, Memory.read?_nil]⟩

end Sys2Proof.Machine
end

section
/-! PROOFS. The encode family step by step (`41_encode.md` R110 to R112), and the commands that leave a result readable
(R118, `42_decode.md` R135). -/

namespace Sys2Proof.Machine

variable {s : State}

/-! ## The accept step of ENC -/

/-- The block s when it has accepted ENC v (R110). -/
def State.encStarted (s : State) (v : Value) : State :=
  (({ s with acc := zextAcc v }).clearResults.acceptOk .enc).startRun .encRun

theorem State.encStarted_acc (s : State) (v : Value) : (s.encStarted v).acc.toNat = v.toNat :=
  BitVec.toNat_setWidth_of_le (by decide)

theorem exec_enc_of_unconfigured (hc : s.cfgOk = false) (v : Value) :
    exec (.enc v) s = .next (s.acceptFault .enc .noCfg 0) := by
  simp [exec, execEnc, hc]

theorem exec_enc_of_configured (hc : s.cfgOk = true) (v : Value) : exec (.enc v) s = .next (s.encStarted v) :=
  if_pos hc

/-- Settles O26: the two branches of the accept step. -/
theorem encLoadsTheValue : Obligations.EncLoadsTheValue := fun v s =>
  ⟨fun hc => exec_enc_of_unconfigured hc v, fun hc => ⟨_, exec_enc_of_configured hc v, s.encStarted_acc v, rfl⟩,
    fun idx => decode_packBeat 3 idx v⟩

/-! ## The run steps of ENC -/

/-- The block s after one division step of ENC (R111). -/
def State.encDivided (s : State) : State :=
  ({ s.setObuf (s.w.toNat - 1 - s.cnt.toNat) (s.fwdAt (s.acc.toNat % s.b.toNat)) with
    acc := BitVec.ofNat 136 (s.acc.toNat / s.b.toNat) }).countStep

/-- The quotient is at most ACC, so it fits (R111). -/
theorem State.encDivided_acc (s : State) : s.encDivided.acc.toNat = s.acc.toNat / s.b.toNat :=
  toNat_ofNat_of_lt ((Nat.div_le_self _ _).trans_lt s.acc.isLt)

section RunSteps

variable (hp : s.phase = .encRun) (hin : s.inputs = [])
include hp hin

theorem step_eq_encRunStep : step s = encRunStep s := by
  rw [step_of_quiet hin, runStep, hp]

theorem step_enc_tooLong (heq : s.cnt.toNat = s.w.toNat) (ha : s.acc ≠ 0) : step s = .next (s.complete .encLen 0) := by
  rw [step_eq_encRunStep hp hin, encRunStep, if_neg (by omega), if_pos heq, encFinish, if_pos ha]

theorem step_enc_done (heq : s.cnt.toNat = s.w.toNat) (ha : s.acc = 0) :
    step s = .next (s.setObufV.complete .ok 0) := by
  rw [step_eq_encRunStep hp hin, encRunStep, if_neg (by omega), if_pos heq, encFinish, if_neg (not_not_intro ha)]

/-- In a state of the invariant the division step finds a radix and stays within the tables (R27, R59). -/
theorem Inv.step_enc_digit (h : Inv s) (hlt : s.cnt.toNat < s.w.toNat) : step s = .next s.encDivided := by
  rw [step_eq_encRunStep hp hin]
  obtain ⟨t, ht⟩ := h.encRunStep_answers hp
  obtain ⟨-, -, -, -, rfl⟩ | ⟨heq, -⟩ | ⟨heq, -⟩ := encRunStep_cases ht
  · exact ht
  · omega
  · omega

end RunSteps

/-- Settles O35: the division step, and a read of OBUF after the write. -/
theorem encDividesByTheRadix : Obligations.EncDividesByTheRadix := fun s h hp hin hlt =>
  ⟨_, h.step_enc_digit hp hin hlt, s.encDivided_acc, cnt_succ_toNat h.cntRange, s.obufAt_setObuf _ _, rfl⟩

/-- Settles O36: the two arms of the finish step. -/
theorem encFinishChecksTheQuotient : Obligations.EncFinishChecksTheQuotient := fun _ hp hin heq =>
  ⟨step_enc_tooLong hp hin heq, step_enc_done hp hin heq⟩

/-! ## Commands that leave a result readable -/

theorem State.decodedValue_of_invalid (hv : s.resV = false) : s.decodedValue = none := by
  rw [State.decodedValue, if_neg (by simp [hv])]

theorem State.encodedString_of_invalid (hv : s.obufV = false) : s.encodedString = none := by
  rw [State.encodedString, if_neg (by simp [hv])]

/-- Settles O31: WRSYM, WRIN and the status writes touch nothing that is read, and a CFG that runs does so on an
unconfigured block, which has no result. -/
theorem resultsSurviveOtherCommands : Obligations.ResultsSurviveOtherCommands := by
  intro i s t h _ hrst henc hdec hexec
  cases AcceptStep.of_exec hexec with
  | status | wrsym | wrin => exact ⟨rfl, rfl, rfl, rfl⟩
  | cfg n hc =>
    obtain ⟨hres, hobuf⟩ := h.no_result hc
    refine ⟨rfl, rfl, ?_, ?_⟩
    · rw [State.decodedValue_of_invalid hres, State.decodedValue_of_invalid (by simpa using hres)]
    · rw [State.encodedString_of_invalid hobuf, State.encodedString_of_invalid (by simpa using hobuf)]
  | enc v => exact absurd rfl (henc v)
  | dec n => exact absurd rfl (hdec n)
  | rst => exact absurd rfl hrst

end Sys2Proof.Machine
end

section
/-! PROOFS. ENC from accept to completion (`41_encode.md` R113): with n digits to come the running block stores the n-digit
numeral of ACC at `OBUF[0..n-1]`. -/

namespace Sys2Proof.Machine

variable {s : State}

/-- The block s when its running ENC has completed with E_OK and left the table m in OBUF (R112). -/
def State.encCompleted (s : State) (m : Memory) : State :=
  { s with obuf := m, acc := 0, cnt := BitVec.ofNat 9 s.w.toNat, err := .ok, errInfo := 0, obufV := true,
           phase := .idle }

/-- The finish step of a state of the invariant, in which the quotient is 0 (R115). -/
theorem Inv.step_enc_completed (h : Inv s) (hp : s.phase = .encRun) (hin : s.inputs = [])
    (heq : s.cnt.toNat = s.w.toNat) : step s = .next (s.encCompleted s.obuf) := by
  have hacc := h.enc_acc_zero hp heq
  have hcnt : s.cnt = BitVec.ofNat 9 s.w.toNat := by rw [← heq, BitVec.ofNat_toNat, BitVec.setWidth_eq]
  rw [step_enc_done hp hin heq hacc, State.encCompleted, ← hacc, ← hcnt]
  rfl

/-- The host that waits for a running ENC with n digits to come finds them in the first n entries of OBUF. -/
theorem Inv.waitReady_enc {n fuel : Nat} (h : Inv s) (hp : s.phase = .encRun) (hin : s.inputs = [])
    (hn : s.cnt.toNat + n = s.w.toNat) (hfuel : n ≤ fuel) :
    ∃ m, waitReady (fuel + 1) s = .next (s.encCompleted m) ∧ ∀ j, m.read? j =
      if j < n then some (s.fwdAt (digitAt s.b.toNat n s.acc.toNat j)) else s.obuf.read? j := by
  have hbusy : s.phase ≠ .idle := by simp [hp]
  induction n generalizing s fuel with
  | zero =>
    refine ⟨s.obuf, ?_, fun j => (if_neg (Nat.not_lt_zero j)).symm⟩
    rw [waitReady_step hbusy (h.step_enc_completed hp hin hn), waitReady_of_idle rfl]
  | succ n ih =>
    have hstep := h.step_enc_digit hp hin (by omega)
    have hcnt : s.encDivided.cnt.toNat = s.cnt.toNat + 1 := cnt_succ_toNat h.cntRange
    have hrest : s.encDivided.cnt.toNat + n = s.w.toNat := by omega
    obtain ⟨fuel, rfl⟩ := Nat.exists_eq_succ_of_ne_zero (n := fuel) (by omega)
    obtain ⟨m, hwait, hread⟩ := ih (h.after_step hstep) hp hin hrest (Nat.le_of_succ_le_succ hfuel) hbusy
    refine ⟨m, (waitReady_step hbusy hstep).trans hwait, fun j => (hread j).trans ?_⟩
    have hslot : s.w.toNat - 1 - s.cnt.toNat = n := by omega
    have hobuf : s.encDivided.obuf.read? j =
        if j = n then some (s.fwdAt (s.acc.toNat % s.b.toNat)) else s.obuf.read? j := by
      rw [← hslot]
      exact Memory.read?_write ..
    obtain hj | rfl | hj := Nat.lt_trichotomy j n
    · rw [if_pos hj, if_pos (by omega), digitAt_init _ hj, ← s.encDivided_acc]
      rfl
    · rw [if_neg (Nat.lt_irrefl j), hobuf, if_pos rfl, if_pos (Nat.lt_succ_self j), digitAt_last]
    · rw [if_neg (by omega), hobuf, if_neg (by omega), if_neg (by omega)]

/-- An ENC issued to a ready configured block of the invariant writes the W-digit numeral of its value to OBUF. -/
theorem Inv.issue_enc (h : Inv s) (hs : s.ReadyQuiet) (hc : s.cfgOk = true) (v : Value) :
    ∃ m, issue (encode (.enc v)) s = .next ((s.encStarted v).encCompleted m) ∧ ∀ j, m.read? j =
      if j < s.w.toNat then some (s.fwdAt (digitAt s.b.toNat s.w.toNat v.toNat j)) else s.obuf.read? j := by
  obtain ⟨hp, hin⟩ := hs
  rw [issue_of_idle hp, decode_encode, withInputs_nil hin, exec_enc_of_configured hc, andThen, ← s.encStarted_acc v]
  obtain ⟨hw, -⟩ := h.width_bounds hc
  exact (h.startEnc hc v).waitReady_enc rfl hin (Nat.zero_add _) (by omega)

/-- Settles O44: the numeral that the run of ENC leaves in OBUF is the string that can be read. -/
theorem encWritesTheNumeral : Obligations.EncWritesTheNumeral := by
  intro v s h hs
  obtain hc | hc := Bool.eq_false_or_eq_true s.cfgOk
  · obtain ⟨m, hissue, hread⟩ := h.issue_enc hs hc v
    obtain ⟨hw, -⟩ := h.width_bounds hc
    refine ⟨_, hissue, by simp [hc], fun _ => ⟨?_, toNat_ofNat_of_lt (by omega), ?_⟩⟩
    · rw [hs.1]
      rfl
    · rw [State.encodedString_of_valid rfl rfl]
      refine congrArg some (List.map_congr_left fun j hj => ?_)
      have hat : m.read? j = _ := (hread j).trans (if_pos (List.mem_range.1 hj))
      exact congrArg (Option.getD · _) hat
  · obtain ⟨hp, hin⟩ := hs
    refine ⟨s.acceptFault .enc .noCfg 0, ?_, fun _ => rfl, by simp [hc]⟩
    rw [issue_of_idle hp, decode_encode, withInputs_nil hin, exec_enc_of_unconfigured hc, andThen]
    exact waitReady_of_idle hp

end Sys2Proof.Machine
end

section
/-! PROOFS. The strings ENC gives (`41_encode.md` R119, R120): the numeral of a number as a list of digits, and the
symbols that show it. -/

namespace Sys2Proof.Machine

/-! ## The digits of a number -/

/-- The w-digit base-b numeral of v, most significant digit first (R113). -/
def numeral (b w v : Nat) : List Nat := (List.range w).map (digitAt b w v)

@[simp] theorem length_numeral (b w v : Nat) : (numeral b w v).length = w := by
  rw [numeral, List.length_map, List.length_range]

theorem numeral_lt {b : Nat} (hb : 0 < b) (w v : Nat) : ∀ d ∈ numeral b w v, d < b := by
  intro d hd
  obtain ⟨j, -, rfl⟩ := List.mem_map.1 hd
  exact Nat.mod_lt _ hb

theorem placeValue_numeral {b w v : Nat} (hv : v < b ^ w) : placeValue b (numeral b w v) = v :=
  (placeValue_digits b w v).trans (Nat.mod_eq_of_lt hv)

/-- The last digit is the remainder by the base, the others are the numeral of the quotient (R111). -/
theorem numeral_succ (b w v : Nat) : numeral b (w + 1) v = numeral b w (v / b) ++ [v % b] := by
  rw [numeral, List.range_succ, List.map_append, List.map_singleton, digitAt_last]
  exact congrArg (· ++ [v % b]) (List.map_congr_left fun j hj => digitAt_init v (List.mem_range.1 hj))

theorem numeral_zero (b w : Nat) : numeral b w 0 = List.replicate w 0 := by
  rw [List.eq_replicate_iff]
  refine ⟨length_numeral b w 0, fun d hd => ?_⟩
  obtain ⟨j, -, rfl⟩ := List.mem_map.1 hd
  rw [digitAt, Nat.zero_div, Nat.zero_mod]

theorem numeral_of_lt {b v : Nat} (hv : v < b) (w : Nat) : numeral b (w + 1) v = List.replicate w 0 ++ [v] := by
  rw [numeral_succ, Nat.div_eq_of_lt hv, Nat.mod_eq_of_lt hv, numeral_zero]

theorem numeral_base {b : Nat} (hb : 1 < b) (w : Nat) : numeral b (w + 2) b = List.replicate w 0 ++ [1, 0] := by
  rw [numeral_succ, Nat.div_self (by omega), Nat.mod_self, numeral_of_lt hb, List.append_assoc]
  rfl

/-- The first digit of a number that fits w digits. -/
theorem head?_numeral {b w v : Nat} (hw : 1 ≤ w) (hv : v / b ^ (w - 1) < b) :
    (numeral b w v).head? = some (v / b ^ (w - 1)) := by
  obtain ⟨w, rfl⟩ := Nat.exists_eq_add_of_le' hw
  rw [numeral, List.range_succ_eq_map, List.map_cons, List.head?_cons, digitAt, Nat.sub_zero, Nat.mod_eq_of_lt hv]

/-- In a radix 2^k the digits are the fields of k bits. -/
theorem digitAt_two_pow (k w : Nat) (v : Value) (j : Nat) :
    digitAt (2 ^ k) w v.toNat j = (v.extractLsb' (k * (w - 1 - j)) k).toNat := by
  rw [digitAt, BitVec.extractLsb'_toNat, Nat.shiftRight_eq_div_pow, Nat.pow_mul]

/-- Digit strings of one length are ordered as their values, also when shown by symbols whose codes rise with the digit
(R119 (d)). -/
theorem map_lt_map_of_placeValue_lt {b : Nat} {f : Nat → Nat} (hf : ∀ i j, i < j → j < b → f i < f j)
    {ds es : List Nat} (hlen : ds.length = es.length) (hds : ∀ d ∈ ds, d < b) (hes : ∀ e ∈ es, e < b)
    (hlt : placeValue b ds < placeValue b es) : ds.map f < es.map f := by
  induction ds generalizing es with
  | nil =>
    obtain rfl := List.length_eq_zero_iff.1 hlen.symm
    exact absurd hlt (Nat.lt_irrefl _)
  | cons d ds ih =>
    obtain _ | ⟨e, es⟩ := es
    · cases hlen
    rw [List.forall_mem_cons] at hds hes
    obtain ⟨-, hds⟩ := hds
    obtain ⟨he, hes⟩ := hes
    replace hlen : ds.length = es.length := Nat.succ.inj hlen
    have htail : placeValue b es < b ^ es.length := placeValue_lt b es hes
    rw [placeValue_cons, placeValue_cons, hlen] at hlt
    rw [List.map_cons, List.map_cons, List.cons_lt_cons_iff]
    obtain hde | rfl | hed := Nat.lt_trichotomy d e
    · exact .inl (hf d e hde he)
    · exact .inr ⟨rfl, ih hlen hds hes (Nat.lt_of_add_lt_add_left hlt)⟩
    · have hhead : (e + 1) * b ^ es.length ≤ d * b ^ es.length := Nat.mul_le_mul_right _ hed
      rw [Nat.succ_mul] at hhead
      omega

/-! ## The symbols of a number -/

variable {s : State}

/-- The string that ENC v gives on the configured block s (R113). -/
def State.symbolsOf (s : State) (v : Value) : List Sym := (numeral s.b.toNat s.w.toNat v.toNat).map s.fwdAt

theorem Inv.issue_enc_string (h : Inv s) (hs : s.ReadyQuiet) (hc : s.cfgOk = true) (v : Value) :
    ∃ t, issue (encode (.enc v)) s = .next t ∧ t.encodedString = some (s.symbolsOf v) := by
  obtain ⟨t, hissue, -, hconf⟩ := encWritesTheNumeral v s h hs
  obtain ⟨-, -, hstr⟩ := hconf hc
  rw [State.symbolsOf, numeral, List.map_map]
  exact ⟨t, hissue, hstr⟩

theorem State.symbolsOf_zero {v : Value} (hv : v.toNat = 0) :
    s.symbolsOf v = List.replicate s.w.toNat (s.fwdAt 0) := by
  rw [State.symbolsOf, hv, numeral_zero, List.map_replicate]

/-- In a radix 2^k the string shows the fields of k bits. -/
theorem State.symbolsOf_two_pow {k w : Nat} (hb : s.b.toNat = 2 ^ k) (hw : s.w.toNat = w) (v : Value) :
    s.symbolsOf v = (List.range w).map fun j => s.fwdAt (v.extractLsb' (k * (w - 1 - j)) k).toNat := by
  rw [State.symbolsOf, hb, hw, numeral, List.map_map]
  exact List.map_congr_left fun j _ => congrArg s.fwdAt (digitAt_two_pow k w v j)

section Configured

variable (h : Inv s) (hc : s.cfgOk = true)
include h hc

/-- The value of the numeral is the value encoded, which W digits hold (R98). -/
theorem Inv.numeral_value (v : Value) : placeValue s.b.toNat (numeral s.b.toNat s.w.toNat v.toNat) = v.toNat := by
  obtain ⟨-, hreach, -⟩ := h.width_bounds hc
  exact placeValue_numeral (v.isLt.trans_le hreach)

theorem Inv.radix_pos : 0 < s.b.toNat := by
  obtain ⟨h16, -⟩ := h.configured hc
  omega

/-- Different digits have different symbols (R32, R103). -/
theorem Inv.fwdAt_inj {d e : Nat} (hd : d < s.b.toNat) (he : e < s.b.toNat) (heq : s.fwdAt d = s.fwdAt e) : d = e := by
  obtain ⟨-, h256, -, hinv⟩ := h.configured hc
  have hrev {i : Nat} (hi : i < s.b.toNat) : s.revAt (s.fwdAt i) = some (BitVec.ofNat 8 i) := by
    have hnat : (BitVec.ofNat 8 i).toNat = i := toNat_ofNat_of_lt (by omega)
    rw [hinv, hnat]
    exact ⟨hi, rfl⟩
  have hsame : BitVec.ofNat 8 d = BitVec.ofNat 8 e := Option.some.inj (by rw [← hrev hd, ← hrev he, heq])
  rw [← toNat_ofNat_of_lt (show d < 2 ^ 8 by omega), hsame, toNat_ofNat_of_lt (by omega)]

/-- The numeral gives the value back, and the symbols give the numeral back (R119 (c)). -/
theorem Inv.symbolsOf_inj {u v : Value} (heq : s.symbolsOf u = s.symbolsOf v) : u = v := by
  have hb := h.radix_pos hc
  rw [State.symbolsOf, State.symbolsOf, numeral, numeral, List.map_map, List.map_map, List.map_inj_left] at heq
  have hdigits : numeral s.b.toNat s.w.toNat u.toNat = numeral s.b.toNat s.w.toNat v.toNat :=
    List.map_congr_left fun j hj => h.fwdAt_inj hc (Nat.mod_lt _ hb) (Nat.mod_lt _ hb) (heq j hj)
  exact BitVec.eq_of_toNat_eq (by rw [← h.numeral_value hc u, hdigits, h.numeral_value hc v])

/-- R119 (d). -/
theorem Inv.symbolsOf_lt (hrise : ∀ i j, i < j → j < s.b.toNat → (s.fwdAt i).toNat < (s.fwdAt j).toNat) {u v : Value}
    (hlt : u.toNat < v.toNat) : (s.symbolsOf u).map BitVec.toNat < (s.symbolsOf v).map BitVec.toNat := by
  have hb := h.radix_pos hc
  rw [← h.numeral_value hc u, ← h.numeral_value hc v] at hlt
  rw [State.symbolsOf, State.symbolsOf, List.map_map, List.map_map]
  exact map_lt_map_of_placeValue_lt hrise (by simp) (numeral_lt hb _ _) (numeral_lt hb _ _) hlt

/-- W of a configured block is at least 16 (R98). -/
theorem Inv.le_w : 16 ≤ s.w.toNat := by
  obtain ⟨h16, h256, hw, -⟩ := h.configured hc
  exact hw ▸ le_width h16 h256

theorem Inv.w_of_mem_widthTable {r : Nat × Nat × Nat} (hr : r ∈ widthTable) (hfirst : r.1 ≤ s.b.toNat)
    (hlast : s.b.toNat ≤ r.2.1) : s.w.toNat = r.2.2 := by
  obtain ⟨-, -, hw, -⟩ := h.configured hc
  exact hw.trans (width_of_mem_widthTable hr hfirst hlast)

theorem Inv.symbolsOf_of_lt {v : Value} (hv : v.toNat < s.b.toNat) :
    s.symbolsOf v = List.replicate (s.w.toNat - 1) (s.fwdAt 0) ++ [s.fwdAt v.toNat] := by
  obtain ⟨w, hw⟩ := Nat.exists_eq_add_of_le' (h.le_w hc)
  rw [State.symbolsOf, hw, numeral_of_lt hv, List.map_append, List.map_replicate]
  rfl

theorem Inv.symbolsOf_radix {v : Value} (hv : v.toNat = s.b.toNat) :
    s.symbolsOf v = List.replicate (s.w.toNat - 2) (s.fwdAt 0) ++ [s.fwdAt 1, s.fwdAt 0] := by
  obtain ⟨w, hw⟩ := Nat.exists_eq_add_of_le' (h.le_w hc)
  obtain ⟨h16, -⟩ := h.configured hc
  rw [State.symbolsOf, hw, hv, numeral_base (by omega), List.map_append, List.map_replicate]
  rfl

/-- Every value has a first digit that its string shows first. -/
theorem Inv.head?_symbolsOf (v : Value) : v.toNat / s.b.toNat ^ (s.w.toNat - 1) < s.b.toNat ∧
    (s.symbolsOf v).head? = some (s.fwdAt (v.toNat / s.b.toNat ^ (s.w.toNat - 1))) := by
  have hw := h.le_w hc
  obtain ⟨-, hreach, -⟩ := h.width_bounds hc
  have hfirst : v.toNat / s.b.toNat ^ (s.w.toNat - 1) < s.b.toNat := by
    rw [Nat.div_lt_iff_lt_mul (Nat.pow_pos (h.radix_pos hc)), mul_pow_sub_one (by omega)]
    exact v.isLt.trans_le hreach
  refine ⟨hfirst, ?_⟩
  rw [State.symbolsOf, List.head?_map, head?_numeral (by omega) hfirst]
  rfl

end Configured

/-- Settles O46: both strings show W-digit numerals, whose place values are the values encoded. -/
theorem encodingIsFixedWidthAndInjective : Obligations.EncodingIsFixedWidthAndInjective := by
  intro u v s h hs hc
  obtain ⟨tu, hissueU, hstrU⟩ := h.issue_enc_string hs hc u
  obtain ⟨tv, hissueV, hstrV⟩ := h.issue_enc_string hs hc v
  exact ⟨tu, tv, _, _, hissueU, hstrU, hissueV, hstrV, by simp [State.symbolsOf], State.symbolsOf_zero,
    fun hne heq => hne (h.symbolsOf_inj hc heq), fun hrise hlt => h.symbolsOf_lt hc hrise hlt⟩

/-- Settles O45: the numerals of the four values, and the digits of a radix that is a power of two. -/
theorem encCornerCases : Obligations.EncCornerCases := by
  intro s h hs hc v
  obtain ⟨t, hissue, hstr⟩ := h.issue_enc_string hs hc v
  obtain ⟨hfirst, hhead⟩ := h.head?_symbolsOf hc v
  have hb := h.radix_pos hc
  refine ⟨t, _, hissue, hstr, State.symbolsOf_zero, fun hv => ?_, h.symbolsOf_radix hc, fun hv => ?_, fun h16 => ?_,
    fun h256 => ?_⟩
  · rw [h.symbolsOf_of_lt hc (by omega), hv]
  · rw [hv] at hfirst hhead
    refine ⟨hfirst, hhead, fun h57 => ?_⟩
    have hw := h.w_of_mem_widthTable hc (r := (57, 68, 22)) (by decide) h57.ge (by rw [h57]; decide)
    rw [hhead, h57, hw]
    norm_num
  · have hw := h.w_of_mem_widthTable hc (r := (16, 17, 32)) (by decide) h16.ge (by rw [h16]; decide)
    rw [State.symbolsOf_two_pow (k := 4) h16 hw]
    refine List.map_congr_left fun j hj => ?_
    rw [show 4 * (32 - 1 - j) = 124 - 4 * j by omega]
  · have hw := h.w_of_mem_widthTable hc (r := (256, 256, 16)) (by decide) h256.ge h256.le
    rw [State.symbolsOf_two_pow (k := 8) h256 hw]
    refine List.map_congr_left fun j hj => ?_
    rw [show 8 * (16 - 1 - j) = 120 - 8 * j by omega]

end Sys2Proof.Machine
end

section
/-! PROOFS. The decode family step by step (`42_decode.md` R125 to R129): the accept steps of WRIN and DEC, and the run
steps of DEC. -/

namespace Sys2Proof.Machine

variable {s : State}

/-! ## The accept steps of WRIN and DEC -/

theorem exec_wrin_of_badIndex {idx : Idx} (hi : 32 ≤ idx.toNat) (sym : Sym) (s : State) :
    exec (.wrin idx sym) s = .next (s.acceptFault .wrin .badIdx idx) := by
  have hbad : ibufIndexOk idx = false := decide_eq_false (Nat.not_lt_of_le hi)
  simp [exec, execWrin, hbad]

theorem exec_wrin_of_index {idx : Idx} (hi : idx.toNat < 32) (sym : Sym) (s : State) :
    exec (.wrin idx sym) s = .next ((s.setIbuf idx.toNat sym).acceptOk .wrin) :=
  if_pos (decide_eq_true hi)

/-- Settles O27: the two branches of the accept step, and a read of IBUF after the write. -/
theorem wrinWritesOneInputEntry : Obligations.WrinWritesOneInputEntry := by
  intro idx sym s
  refine ⟨fun hi => exec_wrin_of_badIndex hi sym s,
    fun hi => ⟨_, exec_wrin_of_index hi sym s, rfl, s.ibufAt_setIbuf idx.toNat sym⟩, fun data hd => ?_⟩
  rw [← setWidth_eq_of_mod hd]
  exact decode_packBeat 4 idx data

/-- The block s when it has accepted DEC len (R126). -/
def State.decStarted (s : State) (len : Idx) : State :=
  (({ s with len := len, acc := 0 }).clearResults.acceptOk .dec).startRun .decRun

theorem exec_dec_of_unconfigured (hc : s.cfgOk = false) (len : Idx) :
    exec (.dec len) s = .next (s.acceptFault .dec .noCfg 0) := by
  simp [exec, execDec, hc]

theorem exec_dec_of_configured (hc : s.cfgOk = true) (len : Idx) : exec (.dec len) s = .next (s.decStarted len) :=
  if_pos hc

/-- Settles O28: the two branches of the accept step. -/
theorem decStartsTheAccumulator : Obligations.DecStartsTheAccumulator := fun len _ =>
  ⟨fun hc => exec_dec_of_unconfigured hc len, fun hc => exec_dec_of_configured hc len,
    fun data => decode_packBeat 5 len data⟩

/-! ## The run steps of DEC -/

/-- The block s after one Horner step of DEC with the digit d (R128). -/
def State.decAdded (s : State) (d : BitVec 8) : State :=
  ({ s with acc := BitVec.ofNat 136 (s.acc.toNat * s.b.toNat + d.toNat) }).countStep

section RunSteps

variable (hp : s.phase = .decRun) (hin : s.inputs = [])
include hp hin

theorem step_eq_decRunStep : step s = decRunStep s := by
  rw [step_of_quiet hin, runStep, hp]

theorem step_dec_length (h0 : s.cnt = 0) (hlen : s.len.toNat ≠ s.w.toNat) :
    step s = .next (s.complete .decLen s.len) := by
  rw [step_eq_decRunStep hp hin, decRunStep, if_pos ⟨h0, hlen⟩]

section RightLength

variable (hlen : s.len.toNat = s.w.toNat)
include hlen

theorem step_eq_decDigit (hlt : s.cnt.toNat < s.w.toNat) : step s = decDigit s := by
  rw [step_eq_decRunStep hp hin, decRunStep, if_neg (by simp [hlen]), if_neg (not_not_intro hlen), if_pos hlt]

/-- With W at most 32 the digit step reads IBUF within the table (R59). -/
theorem step_dec_badSymbol (hw : s.w.toNat ≤ 32) (hlt : s.cnt.toNat < s.w.toNat)
    (hn : s.revAt (s.ibufAt s.cnt.toNat) = none) : step s = .next (s.complete .decChar (zextIdx s.cnt)) := by
  rw [step_eq_decDigit hp hin hlen hlt, decDigit, if_neg (by omega), hn]

theorem step_dec_digit (hw : s.w.toNat ≤ 32) (hlt : s.cnt.toNat < s.w.toNat) {d : BitVec 8}
    (hd : s.revAt (s.ibufAt s.cnt.toNat) = some d) (hfit : s.acc.toNat * s.b.toNat + d.toNat < 2 ^ 136) :
    step s = .next (s.decAdded d) := by
  simp only [step_eq_decDigit hp hin hlen hlt, decDigit, if_neg (show ¬32 ≤ s.cnt.toNat by omega), hd,
    if_neg (Nat.not_le_of_lt hfit), State.decAdded]

theorem step_eq_decFinish (heq : s.cnt.toNat = s.w.toNat) : step s = decFinish s := by
  rw [step_eq_decRunStep hp hin, decRunStep, if_neg (by simp [hlen]), if_neg (not_not_intro hlen), if_neg (by omega),
    if_pos heq]

theorem step_dec_tooLarge (heq : s.cnt.toNat = s.w.toNat) (ha : 2 ^ 128 ≤ s.acc.toNat) :
    step s = .next (s.complete .decRange 0) := by
  rw [step_eq_decFinish hp hin hlen heq, decFinish, if_pos ((acc_high_ne_zero_iff _).2 ha)]

theorem step_dec_done (heq : s.cnt.toNat = s.w.toNat) (ha : s.acc.toNat < 2 ^ 128) :
    step s = .next (s.setResV.complete .ok 0) := by
  rw [step_eq_decFinish hp hin hlen heq, decFinish, if_neg ((acc_high_ne_zero_iff _).not.2 (Nat.not_le_of_lt ha))]

end RightLength

end RunSteps

/-- Settles O37: the first branch of the run step. -/
theorem decChecksTheLengthFirst : Obligations.DecChecksTheLengthFirst := fun _ => step_dec_length

/-- Settles O38: the two arms of the digit step; the invariant bounds W, and the exact result, which fits ACC (R131). -/
theorem decMultipliesAndAdds : Obligations.DecMultipliesAndAdds := by
  intro s h hp hin hlen hlt
  obtain ⟨hc, -⟩ := h.decRunning hp
  obtain ⟨hw, -⟩ := h.width_bounds hc
  refine ⟨fun hn => ⟨_, step_dec_badSymbol hp hin hlen hw hlt hn, zextIdx_toNat s.cnt, rfl⟩, fun d hd => ?_⟩
  have hfit := h.horner_fits hp hlt hd
  exact ⟨_, step_dec_digit hp hin hlen hw hlt hd hfit, toNat_ofNat_of_lt hfit, cnt_succ_toNat h.cntRange, rfl⟩

/-- Settles O39: the two arms of the finish step. -/
theorem decFinishChecksTheRange : Obligations.DecFinishChecksTheRange := fun _ hp hin hlen heq =>
  ⟨step_dec_tooLarge hp hin hlen heq, step_dec_done hp hin hlen heq⟩

end Sys2Proof.Machine
end

section
/-! PROOFS. DEC from accept to completion (`42_decode.md` R130): the run carries the value of its first k symbols along,
and ends in one of four outcomes. -/

namespace Sys2Proof.Machine

variable {s t : State} {len : Idx}

/-! ## The value of the input string -/

theorem State.inputDigits_succ {k : Nat} {d : BitVec 8} (hd : s.inputDigit k = some d) :
    s.inputDigits (k + 1) = s.inputDigits k ++ [d.toNat] := by
  rw [State.inputDigits, List.range_succ, List.filterMap_append]
  simp [State.inputDigits, hd]

/-- One more symbol: the value times B, plus its digit (R128). -/
theorem State.inputValue_succ {k : Nat} {d : BitVec 8} (hd : s.inputDigit k = some d) :
    s.inputValue (k + 1) = s.inputValue k * s.b.toNat + d.toNat := by
  rw [State.inputValue, State.inputDigits_succ hd, placeValue_append_digit, State.inputValue]

/-- The first k symbols have a value below B^k, which W digits keep below 2^136 (R131). -/
theorem Inv.inputValue_lt (h : Inv s) (hc : s.cfgOk = true) {k : Nat} (hk : k ≤ s.w.toNat) :
    s.inputValue k < 2 ^ 136 := by
  have hdigits : ∀ d ∈ s.inputDigits k, d < s.b.toNat := by
    intro d hd
    obtain ⟨j, -, hj⟩ := List.mem_filterMap.1 hd
    obtain ⟨i, hi, rfl⟩ := Option.map_eq_some_iff.1 hj
    exact h.digit_lt hc hi
  have hlength : (s.inputDigits k).length ≤ k := (List.length_filterMap_le _ _).trans_eq List.length_range
  calc s.inputValue k
      < s.b.toNat ^ (s.inputDigits k).length := placeValue_lt _ _ hdigits
    _ ≤ s.b.toNat ^ s.w.toNat := Nat.pow_le_pow_right (h.radix_pos hc) (hlength.trans hk)
    _ < 2 ^ 136 := (h.width_bounds hc).2.2

theorem State.firstBadSymbol_eq_some_iff {j : Nat} :
    s.firstBadSymbol = some j ↔ s.inputDigit j = none ∧ j < s.w.toNat ∧ ∀ k, k < j → s.inputDigit k ≠ none := by
  simp [State.firstBadSymbol, List.find?_range_eq_some]

theorem State.firstBadSymbol_eq_none_iff :
    s.firstBadSymbol = none ↔ ∀ k, k < s.w.toNat → s.inputDigit k ≠ none := by
  simp [State.firstBadSymbol]

/-! ## The run -/

/-- The block while a DEC len runs on s, the first k symbols being decoded (R128). -/
def State.decScanned (s : State) (len : Idx) (k : Nat) : State :=
  { s with opk := .dec, err := .ok, errInfo := 0, len := len, resV := false, obufV := false, phase := .decRun,
           acc := BitVec.ofNat 136 (s.inputValue k), cnt := BitVec.ofNat 9 k }

/-- The accept step leaves the block with nothing decoded (R126). -/
theorem State.decStarted_eq_decScanned (s : State) (len : Idx) : s.decStarted len = s.decScanned len 0 :=
  rfl

theorem State.decScanned_busy (s : State) (len : Idx) (k : Nat) : (s.decScanned len k).phase ≠ .idle :=
  Phase.noConfusion

/-- The outcomes of a DEC len that a ready configured block s accepts (R130). -/
inductive DecOutcome (s : State) (len : Idx) : State → Prop
  /-- R127. -/
  | length (hlen : len.toNat ≠ s.w.toNat) : DecOutcome s len ((s.decScanned len 0).complete .decLen len)
  /-- R128, a symbol with no index. -/
  | badSymbol (hlen : len.toNat = s.w.toNat) (j : Nat) (hj : s.firstBadSymbol = some j) :
      DecOutcome s len ((s.decScanned len j).complete .decChar (zextIdx (BitVec.ofNat 9 j)))
  /-- R129, a value of 2^128 or more. -/
  | tooLarge (hlen : len.toNat = s.w.toNat) (hgood : s.firstBadSymbol = none)
      (hv : 2 ^ 128 ≤ s.inputValue s.w.toNat) :
      DecOutcome s len ((s.decScanned len s.w.toNat).complete .decRange 0)
  /-- R129. -/
  | decoded (hlen : len.toNat = s.w.toNat) (hgood : s.firstBadSymbol = none)
      (hv : s.inputValue s.w.toNat < 2 ^ 128) :
      DecOutcome s len ((s.decScanned len s.w.toNat).setResV.complete .ok 0)

/-- What DEC never changes, and what it always writes. -/
theorem DecOutcome.frame {len : Idx} (h : DecOutcome s len t) :
    t.done = true ∧ t.inputs = s.inputs ∧ t.resets = s.resets ∧ s.KeepsAlphabet t := by
  cases h <;> exact ⟨State.done_iff.2 ⟨rfl, nofun⟩, rfl, rfl, rfl, rfl, rfl, rfl, rfl⟩

section Configured

variable (h : Inv s) (hc : s.cfgOk = true)
include h hc

theorem Inv.decScanned_acc {k : Nat} (hk : k ≤ s.w.toNat) : (s.decScanned len k).acc.toNat = s.inputValue k :=
  toNat_ofNat_of_lt (h.inputValue_lt hc hk)

theorem Inv.decScanned_cnt {k : Nat} (hk : k ≤ s.w.toNat) : (s.decScanned len k).cnt.toNat = k := by
  obtain ⟨hw, -⟩ := h.width_bounds hc
  exact toNat_ofNat_of_lt (by omega)

/-- The Horner step goes on to the state of one symbol more. -/
theorem Inv.decScanned_succ {k : Nat} (hk : k ≤ s.w.toNat) {d : BitVec 8} (hd : s.inputDigit k = some d) :
    (s.decScanned len k).decAdded d = s.decScanned len (k + 1) := by
  have hcnt : BitVec.ofNat 9 k + 1 = BitVec.ofNat 9 (k + 1) := (BitVec.ofNat_add k 1).symm
  rw [State.decAdded, h.decScanned_acc hc hk, State.decScanned, State.decScanned, State.inputValue_succ hd, ← hcnt]
  rfl

variable (hin : s.inputs = []) (hlen : len.toNat = s.w.toNat)
include hin hlen

theorem Inv.step_decScanned {k : Nat} (hk : k < s.w.toNat) {d : BitVec 8} (hd : s.inputDigit k = some d) :
    step (s.decScanned len k) = .next (s.decScanned len (k + 1)) := by
  have hcnt := h.decScanned_cnt hc (len := len) hk.le
  have hfit : (s.decScanned len k).acc.toNat * s.b.toNat + d.toNat < 2 ^ 136 := by
    rw [h.decScanned_acc hc hk.le, ← State.inputValue_succ hd]
    exact h.inputValue_lt hc hk
  rw [← h.decScanned_succ hc hk.le hd]
  exact step_dec_digit (s := s.decScanned len k) rfl hin hlen (h.width_bounds hc).1 (hcnt.trans_lt hk)
    (by rwa [hcnt]) hfit

/-- Over k symbols with an index the host waits k steps. -/
theorem Inv.waitReady_decScanned {k fuel : Nat} (hk : k ≤ s.w.toNat) (hgood : ∀ j, j < k → s.inputDigit j ≠ none) :
    waitReady (k + fuel) (s.decScanned len 0) = waitReady fuel (s.decScanned len k) := by
  induction k generalizing fuel with
  | zero => rw [Nat.zero_add]
  | succ k ih =>
    obtain ⟨d, hd⟩ := Option.ne_none_iff_exists'.1 (hgood k (Nat.lt_succ_self k))
    rw [Nat.add_assoc, Nat.add_comm 1 fuel, ih (by omega) fun j hj => hgood j (by omega),
      waitReady_step (s.decScanned_busy len k) (h.step_decScanned hc hin hlen hk hd)]

end Configured

/-- The host that waits for an accepted DEC finds one of the outcomes. -/
theorem Inv.waitReady_decOutcome (h : Inv s) (hc : s.cfgOk = true) (hin : s.inputs = []) (len : Idx) :
    ∃ t, waitReady 300 (s.decScanned len 0) = .next t ∧ DecOutcome s len t := by
  have hbusy := s.decScanned_busy len
  obtain ⟨hw, -⟩ := h.width_bounds hc
  by_cases hlen : len.toNat = s.w.toNat
  case neg => exact ⟨_, waitReady_complete (hbusy 0) (step_dec_length rfl hin rfl hlen), .length hlen⟩
  have scanned {k : Nat} (hk : k ≤ s.w.toNat) (hgood : ∀ j, j < k → s.inputDigit j ≠ none) :
      waitReady 300 (s.decScanned len 0) = waitReady (299 - k + 1) (s.decScanned len k) := by
    rw [← h.waitReady_decScanned hc hin hlen hk hgood, show k + (299 - k + 1) = 300 by omega]
  cases hbad : s.firstBadSymbol with
  | some j =>
    obtain ⟨hnone, hj, hfirst⟩ := State.firstBadSymbol_eq_some_iff.1 hbad
    have hcnt := h.decScanned_cnt hc (len := len) hj.le
    rw [scanned hj.le hfirst]
    exact ⟨_, waitReady_complete (hbusy j)
      (step_dec_badSymbol rfl hin hlen hw (hcnt.trans_lt hj) (by rwa [hcnt])), .badSymbol hlen j hbad⟩
  | none =>
    have hacc := h.decScanned_acc hc (len := len) (Nat.le_refl _)
    have hcnt := h.decScanned_cnt hc (len := len) (Nat.le_refl _)
    rw [scanned (Nat.le_refl _) (State.firstBadSymbol_eq_none_iff.1 hbad)]
    obtain hv | hv := Nat.lt_or_ge (s.inputValue s.w.toNat) (2 ^ 128)
    · exact ⟨_, waitReady_complete (hbusy _) (step_dec_done rfl hin hlen hcnt (hacc.trans_lt hv)),
        .decoded hlen hbad hv⟩
    · exact ⟨_, waitReady_complete (hbusy _) (step_dec_tooLarge rfl hin hlen hcnt (hv.trans_eq hacc.symm)),
        .tooLarge hlen hbad hv⟩

/-- A DEC issued to a ready configured block ends in one of the outcomes. -/
theorem Inv.issue_dec_outcome (h : Inv s) (hs : s.ReadyQuiet) (hc : s.cfgOk = true) (len : Idx) :
    ∃ t, issue (encode (.dec len)) s = .next t ∧ DecOutcome s len t := by
  obtain ⟨hp, hin⟩ := hs
  rw [issue_of_idle hp, decode_encode, withInputs_nil hin, exec_dec_of_configured hc, andThen,
    State.decStarted_eq_decScanned]
  exact h.waitReady_decOutcome hc hin len

end Sys2Proof.Machine
end

section
/-! PROOFS. The host around DEC: the calls of a driver (`30_encoding.md` R79), a string written to IBUF, and its digits
(`42_decode.md` R125, R130). -/

namespace Sys2Proof.Machine

variable {s t u : State} {α : Type}

/-! ## A driver's calls -/

theorem issueAll_append (cs ds : List Beat) (s : State) :
    issueAll (cs ++ ds) s = andThen (issueAll cs s) (issueAll ds) := by
  induction cs generalizing s with
  | nil => rfl
  | cons c cs ih =>
    rw [List.cons_append, issueAll, issueAll]
    cases issue c s with
    | next t => exact ih t
    | fault f => rfl
    | refused f => rfl

theorem issueAll_singleton (c : Beat) (s : State) : issueAll [c] s = issue c s := by
  rw [issueAll]
  cases issue c s <;> rfl

/-- A call whose beats end with an error answers the code (R64). -/
theorem call_of_err {cs : List Beat} {read : State → Option α} (hcs : issueAll cs s = .next t) (hdone : t.done = true)
    (herr : t.err ≠ .ok) : call cs read s = some (.error t.err, t) := by
  simp [call, hcs, hdone, herr]

/-- A call whose beats end without an error answers what is read (R64). -/
theorem call_of_ok {cs : List Beat} {read : State → Option α} {a : α} (hcs : issueAll cs s = .next t)
    (hdone : t.done = true) (herr : t.err = .ok) (hread : read t = some a) : call cs read s = some (.ok a, t) := by
  simp [call, hcs, hdone, herr, hread]

/-- The number a host presents for a count (R82). -/
theorem saturate_toNat (n : Nat) : (saturate n).toNat = min n 65535 :=
  toNat_ofNat_of_lt (by omega)

/-- `s.GoesOnTo t`: t is a ready block of the invariant, the host driving nothing, with the alphabet of s and no reset
between. -/
structure State.GoesOnTo (s t : State) : Prop where
  inv      : Inv t
  ready    : t.ReadyQuiet
  alphabet : s.KeepsAlphabet t
  resets   : t.resets = s.resets

namespace State.GoesOnTo

theorem refl (h : Inv s) (hs : s.ReadyQuiet) : s.GoesOnTo s := ⟨h, hs, ⟨rfl, rfl, rfl, rfl, rfl⟩, rfl⟩

theorem trans (h : s.GoesOnTo t) (g : t.GoesOnTo u) : s.GoesOnTo u := by
  obtain ⟨-, -, ⟨hfwd, hrev, hb, hw, hc⟩, hresets⟩ := h
  obtain ⟨hinv, hready, ⟨gfwd, grev, gb, gw, gc⟩, gresets⟩ := g
  exact ⟨hinv, hready, ⟨gfwd.trans hfwd, grev.trans hrev, gb.trans hb, gw.trans hw, gc.trans hc⟩, gresets.trans hresets⟩

variable (h : s.GoesOnTo t)
include h

theorem b : t.b = s.b := by
  obtain ⟨-, -, hb, -⟩ := h.alphabet
  exact hb

theorem w : t.w = s.w := by
  obtain ⟨-, -, -, hw, -⟩ := h.alphabet
  exact hw

theorem cfgOk : t.cfgOk = s.cfgOk := by
  obtain ⟨-, -, -, -, hc⟩ := h.alphabet
  exact hc

theorem fwdAt : t.fwdAt = s.fwdAt := by
  obtain ⟨hfwd, -⟩ := h.alphabet
  exact funext (State.fwdAt_congr hfwd h.resets)

theorem revAt : t.revAt = s.revAt := by
  obtain ⟨-, hrev, -⟩ := h.alphabet
  exact funext (State.revAt_congr hrev)

end State.GoesOnTo

/-! ## A string written to IBUF -/

/-- The first symbols of IBUF are those of l (R125). -/
def State.Holds (t : State) (l : List Sym) : Prop := ∀ j c, l[j]? = some c → t.ibufAt j = c

theorem issue_wrin (hs : s.ReadyQuiet) {idx : Idx} (hi : idx.toNat < 32) (sym : Sym) :
    issue (encode (.wrin idx sym)) s = .next ((s.setIbuf idx.toNat sym).acceptOk .wrin) := by
  obtain ⟨hp, hin⟩ := hs
  rw [issue_of_idle hp, decode_encode, withInputs_nil hin, exec_wrin_of_index hi, andThen]
  exact waitReady_of_idle hp

/-- One more symbol written behind those of l. -/
theorem State.Holds.append {l : List Sym} (hl : s.Holds l) (c : Sym) :
    ((s.setIbuf l.length c).acceptOk .wrin).Holds (l ++ [c]) := by
  intro j e hj
  have hread : ((s.setIbuf l.length c).acceptOk .wrin).ibufAt j = _ := s.ibufAt_setIbuf l.length c j
  rw [hread]
  split
  case isTrue heq =>
    rw [heq, List.getElem?_concat_length] at hj
    exact Option.some.inj hj
  case isFalse hne =>
    obtain hlt | hle := Nat.lt_or_ge j l.length
    · exact hl j e (by rwa [List.getElem?_append_left hlt] at hj)
    · rw [List.getElem?_eq_none (by simp; omega)] at hj
      cases hj

/-- Writing at most 32 symbols, one after the other, leaves them in IBUF. -/
theorem Inv.issueAll_wrin (h : Inv s) (hs : s.ReadyQuiet) (l : List Sym) (hl : l.length ≤ 32) :
    ∃ t, issueAll (l.mapIdx fun j c => encode (.wrin (BitVec.ofNat 16 j) c)) s = .next t ∧ s.GoesOnTo t ∧
      t.Holds l := by
  induction l using List.reverseRecOn with
  | nil => exact ⟨s, rfl, .refl h hs, nofun⟩
  | append_singleton l c ih =>
    rw [List.length_append, List.length_singleton] at hl
    obtain ⟨t, ht, hgo, hholds⟩ := ih (by omega)
    have hidx : (BitVec.ofNat 16 l.length).toNat = l.length := toNat_ofNat_of_lt (by omega)
    have hissue := issue_wrin hgo.ready (idx := BitVec.ofNat 16 l.length) (by omega) c
    obtain ⟨hinv, hidle⟩ := hgo.inv.after_issue hgo.ready hissue
    rw [hidx] at hissue hinv hidle
    refine ⟨_, ?_, hgo.trans ⟨hinv, ⟨hidle, hgo.ready.2⟩, ⟨rfl, rfl, rfl, rfl, rfl⟩, rfl⟩, hholds.append c⟩
    rw [List.mapIdx_concat, issueAll_append, ht, andThen, issueAll_singleton, hissue]

/-- What the block holds after a string's beats up to DEC (R79). -/
theorem Inv.issueAll_loadString (h : Inv s) (hs : s.ReadyQuiet) (syms : List Sym) :
    ∃ t, issueAll (loadStringBeats syms) s = .next t ∧ s.GoesOnTo t ∧ t.Holds (syms.take 32) :=
  h.issueAll_wrin hs _ (List.length_take_le 32 syms)

/-! ## The digits of a string -/

/-- The digits of a string are the indexes of its symbols, one by one. -/
theorem mapM_eq_some_iff_map {β γ : Type} {f : β → Option γ} {l : List β} {ds : List γ} :
    l.mapM f = some ds ↔ l.map f = ds.map some := by
  induction l generalizing ds with
  | nil => cases ds <;> simp
  | cons c l ih =>
    rw [List.mapM_cons, List.map_cons]
    cases ds with
    | nil => cases f c <;> cases l.mapM f <;> simp
    | cons d ds =>
      rw [List.map_cons, List.cons.injEq, ← ih]
      cases f c <;> cases l.mapM f <;> simp

/-- A string has digits when each of its symbols has an index. -/
theorem exists_mapM_eq_some_iff {β γ : Type} {f : β → Option γ} {l : List β} :
    (∃ ds, l.mapM f = some ds) ↔ ∀ c ∈ l, f c ≠ none := by
  constructor
  · rintro ⟨ds, hds⟩ c hc hnone
    have hmem : f c ∈ l.map f := List.mem_map_of_mem hc
    rw [mapM_eq_some_iff_map.1 hds, hnone] at hmem
    simp at hmem
  · intro hl
    induction l with
    | nil => exact ⟨[], rfl⟩
    | cons c l ih =>
      obtain ⟨hc, hl⟩ := List.forall_mem_cons.1 hl
      obtain ⟨d, hd⟩ := Option.ne_none_iff_exists'.1 hc
      obtain ⟨ds, hds⟩ := ih hl
      exact ⟨d :: ds, by rw [List.mapM_cons, hd, hds]; rfl⟩

section Loaded

variable {syms : List Sym} (hholds : t.Holds syms)
include hholds

theorem State.Holds.inputDigit {j : Nat} {c : Sym} (hj : syms[j]? = some c) : t.inputDigit j = t.revAt c := by
  rw [State.inputDigit, hholds j c hj]

variable (hlen : syms.length = t.w.toNat)
include hlen

theorem State.Holds.map_inputDigit : (List.range t.w.toNat).map t.inputDigit = syms.map t.revAt := by
  refine List.ext_getElem (by simp [hlen]) fun j hj hj' => ?_
  rw [List.length_map] at hj'
  simp only [List.getElem_map, List.getElem_range]
  exact hholds.inputDigit (List.getElem?_eq_getElem hj')

/-- A string in which no symbol is bad has digits. -/
theorem State.Holds.exists_digits (hnone : t.firstBadSymbol = none) : ∃ ds, syms.mapM t.revAt = some ds := by
  refine exists_mapM_eq_some_iff.2 fun c hc => ?_
  obtain ⟨j, hj⟩ := List.mem_iff_getElem?.1 hc
  obtain ⟨hlt, -⟩ := List.getElem?_eq_some_iff.1 hj
  rw [← hholds.inputDigit hj]
  exact State.firstBadSymbol_eq_none_iff.1 hnone j (hlt.trans_eq hlen)

/-- The value of the input is the place value of the digits of the string it holds (R55, R130). -/
theorem State.Holds.inputValue {ds : List (BitVec 8)} (hds : syms.mapM t.revAt = some ds) :
    t.inputValue t.w.toNat = placeValue t.b.toNat (ds.map BitVec.toNat) := by
  have hdigits : t.inputDigits t.w.toNat =
      ((List.range t.w.toNat).map t.inputDigit).filterMap (Option.map BitVec.toNat) := by
    rw [List.filterMap_map]
    rfl
  rw [State.inputValue, hdigits, hholds.map_inputDigit hlen, mapM_eq_some_iff_map.1 hds, List.filterMap_map]
  exact congrArg (placeValue t.b.toNat) (congrFun List.filterMap_eq_map ds)

end Loaded

end Sys2Proof.Machine
end

section
/-! PROOFS. What `decode_string` answers: the first error, or the value (`42_decode.md` R134). -/

namespace Sys2Proof.Machine

variable {s t u : State}

/-! ## What `decode_string` answers -/

/-- The answers of `decode_string` on a ready configured block s, each with the ERRINFO it leaves (R134). -/
inductive DecodeAnswer (s : State) (syms : List Sym) : Except ErrCode Value → Idx → Prop
  /-- R127. -/
  | length (hlen : syms.length ≠ s.w.toNat) : DecodeAnswer s syms (.error .decLen) (saturate syms.length)
  /-- R128: the leftmost symbol with no index. -/
  | badSymbol (hlen : syms.length = s.w.toNat) (x : Idx) (c : Sym) (hx : syms[x.toNat]? = some c)
      (hbad : s.revAt c = none) (hfirst : ∀ j e, j < x.toNat → syms[j]? = some e → s.revAt e ≠ none) :
      DecodeAnswer s syms (.error .decChar) x
  /-- R129, a value of 2^128 or more. -/
  | tooLarge (hlen : syms.length = s.w.toNat) (ds : List (BitVec 8)) (hds : syms.mapM s.revAt = some ds)
      (hv : 2 ^ 128 ≤ placeValue s.b.toNat (ds.map BitVec.toNat)) : DecodeAnswer s syms (.error .decRange) 0
  /-- R129. -/
  | decoded (hlen : syms.length = s.w.toNat) (ds : List (BitVec 8)) (hds : syms.mapM s.revAt = some ds)
      (hv : placeValue s.b.toNat (ds.map BitVec.toNat) < 2 ^ 128) :
      DecodeAnswer s syms (.ok (BitVec.ofNat 128 (placeValue s.b.toNat (ds.map BitVec.toNat)))) 0

/-- Once the string is in IBUF, the outcome of DEC is the answer for it. -/
theorem DecOutcome.answer {syms : List Sym} {beats : List Beat} (h : DecOutcome u (saturate syms.length) t) (hu : Inv u)
    (hc : u.cfgOk = true) (hholds : u.Holds (syms.take 32)) (hbeats : issueAll beats s = .next t) :
    ∃ ans, call beats State.decodedValue s = some (ans, t) ∧ DecodeAnswer u syms ans t.errInfo := by
  obtain ⟨hdone, -⟩ := h.frame
  obtain ⟨hw, -⟩ := hu.width_bounds hc
  have hsat := saturate_toNat syms.length
  by_cases hlen : syms.length = u.w.toNat
  case neg =>
    cases h with
    | length => exact ⟨_, call_of_err hbeats hdone nofun, .length hlen⟩
    | badSymbol hsame | tooLarge hsame | decoded hsame => omega
  rw [List.take_of_length_le (hlen.trans_le hw)] at hholds
  cases h with
  | length hne => omega
  | badSymbol _ j hj =>
    obtain ⟨hbad, hj, hfirst⟩ := State.firstBadSymbol_eq_some_iff.1 hj
    have hx : (zextIdx (BitVec.ofNat 9 j)).toNat = j := by rw [zextIdx_toNat, toNat_ofNat_of_lt (by omega)]
    have hat : syms[j]? = some syms[j] := List.getElem?_eq_getElem (by omega)
    refine ⟨_, call_of_err hbeats hdone nofun, .badSymbol hlen (zextIdx (BitVec.ofNat 9 j)) syms[j] (by rwa [hx]) ?_
      fun k e hk he => ?_⟩
    · rw [← hholds.inputDigit hat, hbad]
    · rw [← hholds.inputDigit he]
      exact hfirst k (by rwa [hx] at hk)
  | tooLarge _ hnone hv =>
    obtain ⟨ds, hds⟩ := hholds.exists_digits hlen hnone
    rw [hholds.inputValue hlen hds] at hv
    exact ⟨_, call_of_err hbeats hdone nofun, .tooLarge hlen ds hds hv⟩
  | decoded _ hnone hv =>
    obtain ⟨ds, hds⟩ := hholds.exists_digits hlen hnone
    have hvalue := hholds.inputValue hlen hds
    have hres : ((u.decScanned (saturate syms.length) u.w.toNat).setResV.complete .ok 0).decodedValue =
        some (BitVec.ofNat 128 (placeValue u.b.toNat (ds.map BitVec.toNat))) := by
      rw [State.decodedValue_of_valid rfl rfl, ← hvalue]
      exact congrArg some (BitVec.setWidth_ofNat_of_le (by decide) _)
    exact ⟨_, call_of_ok hbeats hdone rfl hres, .decoded hlen ds hds (hvalue ▸ hv)⟩

/-- An answer depends on W, B and REV alone. -/
theorem DecodeAnswer.of_goesOnTo {syms : List Sym} {ans : Except ErrCode Value} {x : Idx} (hgo : s.GoesOnTo u)
    (h : DecodeAnswer u syms ans x) : DecodeAnswer s syms ans x := by
  have hrev := hgo.revAt
  have hw := hgo.w
  have hb := hgo.b
  cases h with
  | length hlen => exact .length (hw ▸ hlen)
  | badSymbol hlen x c hx hbad hfirst => exact .badSymbol (hw ▸ hlen) x c hx (hrev ▸ hbad) (hrev ▸ hfirst)
  | tooLarge hlen ds hds hv => exact .tooLarge (hw ▸ hlen) ds (hrev ▸ hds) (hb ▸ hv)
  | decoded hlen ds hds hv =>
    rw [hb] at hv ⊢
    exact .decoded (hw ▸ hlen) ds (hrev ▸ hds) hv

/-- `decode_string` answers, and leaves the block ready with its alphabet. -/
theorem Inv.decodeString_answers (h : Inv s) (hs : s.ReadyQuiet) (hc : s.cfgOk = true) (syms : List Sym) :
    ∃ ans t, decodeString syms s = some (ans, t) ∧ DecodeAnswer s syms ans t.errInfo ∧ s.GoesOnTo t := by
  obtain ⟨u, hload, hgo, hholds⟩ := h.issueAll_loadString hs syms
  have hcu : u.cfgOk = true := hgo.cfgOk.trans hc
  obtain ⟨t, hissue, hout⟩ := hgo.inv.issue_dec_outcome hgo.ready hcu (saturate syms.length)
  have hbeats : issueAll (decodeStringBeats syms) s = .next t := by
    rw [decodeStringBeats, issueAll_append, hload, andThen, issueAll_singleton, hissue]
  obtain ⟨ans, hcall, hans⟩ := hout.answer hgo.inv hcu hholds hbeats
  obtain ⟨-, hin, hresets, hkeep⟩ := hout.frame
  obtain ⟨hinv, hidle⟩ := hgo.inv.after_issue hgo.ready hissue
  exact ⟨ans, t, hcall, hans.of_goesOnTo hgo,
    hgo.trans ⟨hinv, ⟨hidle, hin.trans hgo.ready.2⟩, hkeep, hresets⟩⟩

/-- Settles O48: the answers, one by one, against the clauses. -/
theorem decodeStringReportsTheFirstError : Obligations.DecodeStringReportsTheFirstError := by
  intro syms s h hs hc
  obtain ⟨ans, t, hdec, hans, -⟩ := h.decodeString_answers hs hc syms
  refine ⟨ans, t, hdec, ?_⟩
  generalize t.errInfo = x at hans ⊢
  have indexed {ds : List (BitVec 8)} (hds : syms.mapM s.revAt = some ds) : ¬∃ c ∈ syms, s.revAt c = none :=
    fun ⟨c, hmem, hnone⟩ => exists_mapM_eq_some_iff.1 ⟨ds, hds⟩ c hmem hnone
  cases hans with
  | length hne => exact ⟨fun _ => ⟨rfl, rfl⟩, fun heq => absurd heq hne, fun _ heq => absurd heq hne⟩
  | badSymbol hlen x c hx hbad hfirst =>
    exact ⟨fun hne => absurd hlen hne, fun _ _ => ⟨rfl, ⟨c, hx, hbad⟩, hfirst⟩,
      fun ds _ hds => absurd ⟨c, List.mem_of_getElem? hx, hbad⟩ (indexed hds)⟩
  | tooLarge hlen ds hds hv =>
    refine ⟨fun hne => absurd hlen hne, fun _ hbad => absurd hbad (indexed hds), fun es _ hes => ?_⟩
    obtain rfl := Option.some.inj (hds.symm.trans hes)
    exact ⟨fun _ => ⟨rfl, rfl⟩, fun hlt => absurd hv (Nat.not_le_of_lt hlt)⟩
  | decoded hlen ds hds hv =>
    refine ⟨fun hne => absurd hlen hne, fun _ hbad => absurd hbad (indexed hds), fun es _ hes => ?_⟩
    obtain rfl := Option.some.inj (hds.symm.trans hes)
    exact ⟨fun hle => absurd hle (Nat.not_le_of_lt hv), fun _ => rfl⟩

end Sys2Proof.Machine
end

section
/-! PROOFS. The strings that decode (`42_decode.md` R136 to R138): those that ENC gives, and no others. -/

namespace Sys2Proof.Machine

/-! ## Digits and values -/

/-- A digit string is the numeral of its value (R136). -/
theorem numeral_placeValue {b : Nat} {ds : List Nat} (hds : ∀ d ∈ ds, d < b) :
    numeral b ds.length (placeValue b ds) = ds := by
  induction ds using List.reverseRecOn with
  | nil => rfl
  | append_singleton ds d ih =>
    rw [List.forall_mem_append, List.forall_mem_singleton] at hds
    obtain ⟨hds, hd⟩ := hds
    have hquot : (placeValue b ds * b + d) / b = placeValue b ds := by
      rw [Nat.mul_comm, Nat.mul_add_div (by omega), Nat.div_eq_of_lt hd, Nat.add_zero]
    rw [List.length_append, List.length_singleton, numeral_succ, placeValue_append_digit, hquot, ih hds,
      Nat.mul_add_mod_of_lt hd]

/-- The w-digit numeral of last digits has the largest value of w digits. -/
theorem placeValue_replicate_last {b : Nat} (hb : 0 < b) (w : Nat) :
    placeValue b (List.replicate w (b - 1)) + 1 = b ^ w := by
  induction w with
  | zero => rfl
  | succ w ih =>
    rw [List.replicate_succ, placeValue_cons, List.length_replicate, Nat.add_assoc, ih, ← Nat.succ_mul, pow_succ',
      Nat.succ_eq_add_one, Nat.sub_add_cancel hb]

/-- Of the radices only 16 and 256 have 2^128 among their powers (R137). -/
theorem radix_of_pow_eq {b w : Nat} (h16 : 16 ≤ b) (h256 : b ≤ 256) (hw : 0 < w) (heq : b ^ w = 2 ^ 128) :
    b = 16 ∨ b = 256 := by
  obtain ⟨k, -, rfl⟩ := (Nat.dvd_prime_pow Nat.prime_two).1 (heq ▸ dvd_pow_self b hw.ne')
  have h4 : 4 ≤ k := (Nat.pow_le_pow_iff_right (by decide : 1 < 2)).1 h16
  have h8 : k ≤ 8 := (Nat.pow_le_pow_iff_right (by decide : 1 < 2)).1 h256
  have hexp : k * w = 128 := Nat.pow_right_injective (Nat.le_refl 2) (by simpa [← pow_mul] using heq)
  interval_cases k <;> omega

variable {s t : State}

/-- Blocks with the same alphabet give the same strings. -/
theorem State.GoesOnTo.symbolsOf (h : s.GoesOnTo t) (v : Value) : t.symbolsOf v = s.symbolsOf v := by
  rw [State.symbolsOf, State.symbolsOf, h.b, h.w, h.fwdAt]

section Configured

variable (h : Inv s) (hc : s.cfgOk = true)
include h hc

/-- A digit's symbol has that digit as its index (R32). -/
theorem Inv.revAt_fwdAt {d : Nat} (hd : d < s.b.toNat) : s.revAt (s.fwdAt d) = some (BitVec.ofNat 8 d) := by
  obtain ⟨-, h256, -, hinv⟩ := h.configured hc
  have hnat : (BitVec.ofNat 8 d).toNat = d := toNat_ofNat_of_lt (by omega)
  rw [hinv, hnat]
  exact ⟨hd, rfl⟩

/-- A symbol with an index is the symbol of that digit (R32). -/
theorem Inv.fwdAt_of_revAt {c : Sym} {d : BitVec 8} (hd : s.revAt c = some d) : s.fwdAt d.toNat = c := by
  obtain ⟨-, -, -, hinv⟩ := h.configured hc
  exact ((hinv c d).1 hd).2

/-- The indexes of the symbols of a numeral are its digits. -/
theorem Inv.mapM_revAt_fwdAt {ds : List Nat} (hds : ∀ d ∈ ds, d < s.b.toNat) :
    (ds.map s.fwdAt).mapM s.revAt = some (ds.map (BitVec.ofNat 8)) := by
  rw [mapM_eq_some_iff_map, List.map_map, List.map_map]
  exact List.map_congr_left fun d hd => h.revAt_fwdAt hc (hds d hd)

/-- The digits of a string are digits of the radix, and their symbols are the string. -/
theorem Inv.digits_of_mapM {syms : List Sym} {ds : List (BitVec 8)} (hds : syms.mapM s.revAt = some ds) :
    (∀ d ∈ ds.map BitVec.toNat, d < s.b.toNat) ∧ (ds.map BitVec.toNat).map s.fwdAt = syms := by
  rw [mapM_eq_some_iff_map] at hds
  induction syms generalizing ds with
  | nil =>
    obtain rfl := List.map_eq_nil_iff.1 hds.symm
    exact ⟨nofun, rfl⟩
  | cons c syms ih =>
    obtain _ | ⟨d, ds⟩ := ds
    · cases hds
    obtain ⟨hd, hds⟩ := List.cons.inj hds
    obtain ⟨hlt, hsyms⟩ := ih hds
    rw [List.map_cons, List.forall_mem_cons, List.map_cons, hsyms, h.fwdAt_of_revAt hc hd]
    exact ⟨⟨h.digit_lt hc hd, hlt⟩, rfl⟩

/-- The digits of a string of W symbols make a value below B^W (R130). -/
theorem Inv.placeValue_lt_pow {syms : List Sym} {ds : List (BitVec 8)} (hlen : syms.length = s.w.toNat)
    (hds : syms.mapM s.revAt = some ds) : placeValue s.b.toNat (ds.map BitVec.toNat) < s.b.toNat ^ s.w.toNat := by
  obtain ⟨hlt, hsyms⟩ := h.digits_of_mapM hc hds
  rw [← hlen, ← hsyms, List.length_map]
  exact placeValue_lt _ _ hlt

/-- A string of W symbols with a value below 2^128 is the string of that value. -/
theorem Inv.symbolsOf_placeValue {syms : List Sym} {ds : List (BitVec 8)} (hlen : syms.length = s.w.toNat)
    (hds : syms.mapM s.revAt = some ds) (hv : placeValue s.b.toNat (ds.map BitVec.toNat) < 2 ^ 128) :
    s.symbolsOf (BitVec.ofNat 128 (placeValue s.b.toNat (ds.map BitVec.toNat))) = syms := by
  obtain ⟨hlt, hsyms⟩ := h.digits_of_mapM hc hds
  have hw : s.w.toNat = (ds.map BitVec.toNat).length := by rw [← hlen, ← hsyms, List.length_map]
  rw [State.symbolsOf, toNat_ofNat_of_lt hv, hw, numeral_placeValue hlt, hsyms]

/-- The string of a value has digits whose value it is. -/
theorem Inv.mapM_symbolsOf (v : Value) : ∃ ds, (s.symbolsOf v).mapM s.revAt = some ds ∧
    placeValue s.b.toNat (ds.map BitVec.toNat) = v.toNat := by
  have hdigits := numeral_lt (h.radix_pos hc) s.w.toNat v.toNat
  obtain ⟨-, h256, -⟩ := h.configured hc
  refine ⟨_, h.mapM_revAt_fwdAt hc hdigits, ?_⟩
  have hback : ((numeral s.b.toNat s.w.toNat v.toNat).map (BitVec.ofNat 8)).map BitVec.toNat =
      numeral s.b.toNat s.w.toNat v.toNat := by
    rw [List.map_map]
    refine (List.map_congr_left fun d hd => ?_).trans (List.map_id _)
    have hd := hdigits d hd
    exact toNat_ofNat_of_lt (by omega)
  rw [hback, h.numeral_value hc]

/-! ## The strings that decode -/

variable (hs : s.ReadyQuiet)
include hs

/-- The string of a value decodes to it, and no other string does (R136). -/
theorem Inv.decodeString_eq_ok_iff (str : List Sym) (v : Value) :
    (∃ t, decodeString str s = some (.ok v, t)) ↔ str = s.symbolsOf v := by
  constructor
  · rintro ⟨t, ht⟩
    obtain ⟨ans, u, hdec, hans, -⟩ := h.decodeString_answers hs hc str
    obtain ⟨rfl, rfl⟩ := Prod.mk.inj (Option.some.inj (ht.symm.trans hdec))
    generalize t.errInfo = x at hans
    cases hans with
    | decoded hlen ds hds hv => exact (h.symbolsOf_placeValue hc hlen hds hv).symm
  · rintro rfl
    obtain ⟨ds, hds, hvalue⟩ := h.mapM_symbolsOf hc v
    obtain ⟨ans, t, hdec, -, -, hval⟩ := decodeStringReportsTheFirstError (s.symbolsOf v) s h hs hc
    obtain ⟨-, hok⟩ := hval ds (by simp [State.symbolsOf]) hds
    rw [hdec, hok (hvalue ▸ v.isLt), hvalue, BitVec.ofNat_toNat, BitVec.setWidth_eq]
    exact ⟨t, rfl⟩

/-- `encode_int` answers the string of the value, and leaves the block ready with its alphabet. -/
theorem Inv.encodeInt_answers (v : Value) :
    ∃ t, encodeInt v.toNat s = some (.ok (s.symbolsOf v), t) ∧ s.GoesOnTo t := by
  obtain ⟨m, hissue, -⟩ := h.issue_enc hs hc v
  obtain ⟨t, hissue', hstr⟩ := h.issue_enc_string hs hc v
  obtain ⟨hinv, hidle⟩ := h.after_issue hs hissue'
  obtain rfl := Host.Outcome.next.inj (hissue.symm.trans hissue')
  refine ⟨_, ?_, ⟨hinv, ⟨hidle, hs.2⟩, ⟨rfl, rfl, rfl, rfl, rfl⟩, rfl⟩⟩
  rw [encodeInt, if_neg (Nat.not_le_of_lt v.isLt), BitVec.ofNat_toNat, BitVec.setWidth_eq]
  exact call_of_ok ((issueAll_singleton _ s).trans hissue) (State.done_iff.2 ⟨rfl, nofun⟩) rfl hstr

/-- At a radix where B^W is 2^128 every string of W symbols with an index decodes (R137). -/
theorem Inv.decodeString_ok_of_pow (hpow : s.b.toNat ^ s.w.toNat = 2 ^ 128) {syms : List Sym}
    (hlen : syms.length = s.w.toNat) (hsyms : ∀ c ∈ syms, s.revAt c ≠ none) :
    ∃ v t, decodeString syms s = some (.ok v, t) := by
  obtain ⟨ds, hds⟩ := exists_mapM_eq_some_iff.2 hsyms
  obtain ⟨ans, t, hdec, -, -, hval⟩ := decodeStringReportsTheFirstError syms s h hs hc
  obtain ⟨-, hok⟩ := hval ds hlen hds
  exact ⟨_, t, hok ((h.placeValue_lt_pow hc hlen hds).trans_eq hpow) ▸ hdec⟩

/-- At any other radix the string of W last symbols has a value of 2^128 or more (R138). -/
theorem Inv.decodeString_last_symbols (hpow : s.b.toNat ^ s.w.toNat ≠ 2 ^ 128) :
    ∃ t, decodeString (List.replicate s.w.toNat (s.fwdAt (s.b.toNat - 1))) s = some (.error .decRange, t) := by
  have hb := h.radix_pos hc
  obtain ⟨-, h256, -⟩ := h.configured hc
  obtain ⟨-, hreach, -⟩ := h.width_bounds hc
  have hvalue := placeValue_replicate_last hb s.w.toNat
  have hlast : (BitVec.ofNat 8 (s.b.toNat - 1)).toNat = s.b.toNat - 1 := toNat_ofNat_of_lt (by omega)
  have hds : (List.replicate s.w.toNat (s.fwdAt (s.b.toNat - 1))).mapM s.revAt =
      some (List.replicate s.w.toNat (BitVec.ofNat 8 (s.b.toNat - 1))) := by
    rw [mapM_eq_some_iff_map, List.map_replicate, List.map_replicate, h.revAt_fwdAt hc (by omega)]
  obtain ⟨ans, t, hdec, -, -, hval⟩ := decodeStringReportsTheFirstError _ s h hs hc
  obtain ⟨hrange, -⟩ := hval _ List.length_replicate hds
  rw [List.map_replicate, hlast] at hrange
  obtain ⟨rfl, -⟩ := hrange (by omega)
  exact ⟨t, hdec⟩

end Configured

/-- Settles O47: both halves of R136 are the one fact that a string decodes to a value exactly when it is the string ENC
gives for it; ENC and DEC keep the alphabet on which that string depends. -/
theorem encodeAndDecodeAreInverse : Obligations.EncodeAndDecodeAreInverse := by
  intro s h hs hc
  refine ⟨fun v => ?_, fun v str t hdec => ?_, fun v str => ?_⟩
  · obtain ⟨t, henc, hgo⟩ := h.encodeInt_answers hc hs v
    obtain ⟨u, hdec⟩ := (hgo.inv.decodeString_eq_ok_iff (hgo.cfgOk.trans hc) hgo.ready (s.symbolsOf v) v).2
      (hgo.symbolsOf v).symm
    exact ⟨_, t, u, henc, by simp [State.symbolsOf], hdec⟩
  · obtain rfl := (h.decodeString_eq_ok_iff hc hs str v).1 ⟨t, hdec⟩
    obtain ⟨ans, t', hdec', -, hgo⟩ := h.decodeString_answers hs hc (s.symbolsOf v)
    obtain ⟨-, rfl⟩ := Prod.mk.inj (Option.some.inj (hdec.symm.trans hdec'))
    obtain ⟨u, henc, -⟩ := hgo.inv.encodeInt_answers (hgo.cfgOk.trans hc) hgo.ready v
    exact ⟨u, hgo.symbolsOf v ▸ henc⟩
  · obtain ⟨t, henc, -⟩ := h.encodeInt_answers hc hs v
    rw [h.decodeString_eq_ok_iff hc hs, henc]
    constructor
    · rintro rfl
      exact ⟨t, rfl⟩
    · rintro ⟨u, hu⟩
      obtain ⟨hstr, -⟩ := Prod.mk.inj (Option.some.inj hu)
      exact (Except.ok.inj hstr).symm

/-- Settles O49: B^W is at least 2^128, and equal to it at the radices 16 and 256 only. -/
theorem onlyTwoRadicesAcceptEveryString : Obligations.OnlyTwoRadicesAcceptEveryString := by
  intro s h hs hc
  obtain ⟨h16, h256, -⟩ := h.configured hc
  have hw := h.le_w hc
  refine ⟨fun hb syms hlen hsyms => h.decodeString_ok_of_pow hc hs ?_ hlen hsyms,
    fun hne16 hne256 => h.decodeString_last_symbols hc hs fun hpow => ?_⟩
  · obtain hb | hb := hb
    · rw [h.w_of_mem_widthTable hc (r := (16, 17, 32)) (by decide) h16 (by rw [hb]; decide), hb]
      decide
    · rw [h.w_of_mem_widthTable hc (r := (256, 256, 16)) (by decide) hb.ge h256, hb]
      decide
  · obtain hb | hb := radix_of_pow_eq h16 h256 (by omega) hpow
    · exact hne16 hb
    · exact hne256 hb

end Sys2Proof.Machine
end

section
/-! PROOFS. The system family (`43_system.md` R145 to R147): NOP, the reserved opcodes and RST. -/

namespace Sys2Proof.Machine

/-! ## NOP -/

theorem exec_nop (s : State) : exec .nop s = .next (s.acceptOk .nop) := rfl

/-- Settles O21: the accept step records a command with no error, and opcode 0 selects NOP whatever the fields hold. -/
theorem nopWritesStatusOnly : Obligations.NopWritesStatusOnly :=
  ⟨exec_nop, fun idx data => decode_packBeat 0 idx data⟩

/-! ## The reserved opcodes -/

/-- The reserved commands and their opcodes (R75). -/
def reservedCommands : List (Instr × Nat) :=
  [(.ill6, 6), (.ill7, 7), (.ill8, 8), (.ill9, 9), (.illA, 10), (.illB, 11), (.illC, 12), (.illD, 13), (.illE, 14)]

/-- The nine meanings are one, of the opcode (R147). -/
theorem exec_reserved (s : State) {p : Instr × Nat} (hp : p ∈ reservedCommands) :
    exec p.1 s = .next (s.acceptFault .ill .illCmd (BitVec.ofNat 16 p.2)) := by
  simp only [reservedCommands, List.mem_cons, List.not_mem_nil, or_false] at hp
  obtain rfl | rfl | rfl | rfl | rfl | rfl | rfl | rfl | rfl := hp <;> rfl

theorem mem_reservedCommands_of_opcode :
    ∀ op : BitVec 4, 6 ≤ op.toNat → op.toNat ≤ 14 → (decode (packBeat op 0 0), op.toNat) ∈ reservedCommands := by
  decide

/-- Settles O22: a beat with one of the nine opcodes decodes to the reserved command of that opcode, whatever its other
fields hold, and the nine meanings are one. -/
theorem reservedOpcodesReportIllegalCommand : Obligations.ReservedOpcodesReportIllegalCommand := by
  refine ⟨fun s p hp => exec_reserved s hp, fun s op idx data h6 h14 => ?_⟩
  rw [decode_packBeat_without_operands (.inr h6)]
  exact exec_reserved s (mem_reservedCommands_of_opcode op h6 h14)

/-! ## RST -/

theorem exec_rst (s : State) : exec .rst s = .next s.toReset := rfl

/-- The `reset` input takes a block to the state that RST gives (R146, R205). -/
theorem step_resetPulse (s : State) : step { s with inputs := PortIn.resetPulse :: s.inputs } = .next s.toReset := rfl

/-- Settles O23: RST and the `reset` input both answer `State.toReset`, which is unconfigured; a busy block takes a step
of the core, whatever beat is held on offer. -/
theorem rstGivesTheResetState : Obligations.RstGivesTheResetState := by
  refine ⟨fun s => ⟨s.toReset, exec_rst s, s.toReset_hasResetValues, rfl, rfl, rfl, step_resetPulse s, fun v => ?_⟩,
    fun idx data => decode_packBeat 0xF idx data, fun s t hp hstep => ?_⟩
  · exact ⟨_, exec_enc_of_unconfigured s.toReset_hasResetValues.cfgOk v, rfl⟩
  · exact step_held_of_busy (s := { s with inputs := [] }) hp (encode .rst) ((step_of_quiet rfl).symm.trans hstep)

end Sys2Proof.Machine
end

section
/-! PROOFS. The host around CFG (`44_host_framing.md` R169): the symbols written to FWD one by one, and what
`build_alphabet` answers. -/

namespace Sys2Proof.Machine

variable {s t : State}

/-! ## Symbols written to FWD -/

/-- The first symbols of FWD are those of l (R91). -/
def State.Lists (t : State) (l : List Sym) : Prop := ∀ i c, l[i]? = some c → t.fwdAt i = c

theorem State.lists_congr (h : t.fwdAt = s.fwdAt) {l : List Sym} : t.Lists l ↔ s.Lists l := by
  rw [State.Lists, State.Lists, h]

/-- One more symbol written behind those of l. -/
theorem State.Lists.append {l : List Sym} (hl : s.Lists l) (c : Sym) : (s.setFwd l.length c).Lists (l ++ [c]) := by
  intro i e hi
  rw [State.fwdAt_setFwd]
  split
  case isTrue heq =>
    rw [heq, List.getElem?_concat_length] at hi
    exact Option.some.inj hi
  case isFalse hne =>
    obtain ⟨hlt, -⟩ := List.getElem?_eq_some_iff.1 hi
    rw [List.length_append, List.length_singleton] at hlt
    rw [List.getElem?_append_left (by omega)] at hi
    exact hl i e hi

/-- The listed symbols are distinct exactly when none of them stands at an earlier index of FWD too. -/
theorem State.Lists.nodup_iff {l : List Sym} (hl : s.Lists l) : l.Nodup ↔ ∀ k, k < l.length → ¬s.RepeatsAt k := by
  have hat {i : Nat} (hi : i < l.length) : l[i]? = some (s.fwdAt i) := by
    rw [List.getElem?_eq_getElem hi, hl i _ (List.getElem?_eq_getElem hi)]
  simp only [List.nodup_iff_getElem?_ne_getElem?, State.not_repeatsAt]
  refine ⟨fun h k hk j hj heq => h j k hj hk ?_, fun h j k hj hk heq => h k hk j hj ?_⟩
  · rw [hat hk, hat (hj.trans hk), heq]
  · rw [hat hk, hat (hj.trans hk)] at heq
    exact (Option.some.inj heq).symm

/-- A WRSYM issued to a ready block: refused when the block is locked, else one entry of FWD (R91). -/
theorem issue_wrsym (hs : s.ReadyQuiet) {idx : Idx} (hi : idx.toNat < 256) (sym : Sym) :
    ∃ t, issue (encode (.wrsym idx sym)) s = .next t ∧ t.ReadyQuiet ∧ t.cfgOk = s.cfgOk ∧
      (s.cfgOk = false → t = (s.setFwd idx.toNat sym).acceptOk .wrsym) := by
  obtain ⟨hp, hin⟩ := hs
  rw [issue_of_idle hp, decode_encode, withInputs_nil hin]
  cases hc : s.cfgOk with
  | true =>
    rw [exec_wrsym_of_locked hc, andThen]
    exact ⟨_, waitReady_of_idle hp, ⟨hp, hin⟩, hc, nofun⟩
  | false =>
    rw [exec_wrsym_of_index hc hi, andThen]
    exact ⟨_, waitReady_of_idle hp, ⟨hp, hin⟩, hc, fun _ => rfl⟩

/-- Writing at most 256 symbols, one after the other, leaves them in FWD unless the block is locked. -/
theorem Inv.issueAll_wrsym (h : Inv s) (hs : s.ReadyQuiet) (l : List Sym) (hl : l.length ≤ 256) :
    ∃ t, issueAll (l.mapIdx fun i c => encode (.wrsym (BitVec.ofNat 16 i) c)) s = .next t ∧ Inv t ∧ t.ReadyQuiet ∧
      t.cfgOk = s.cfgOk ∧ (s.cfgOk = false → t.Lists l) := by
  induction l using List.reverseRecOn with
  | nil => exact ⟨s, rfl, h, hs, rfl, fun _ => nofun⟩
  | append_singleton l c ih =>
    rw [List.length_append, List.length_singleton] at hl
    obtain ⟨t, ht, hinv, hready, hcfg, hlists⟩ := ih (by omega)
    have hidx : (BitVec.ofNat 16 l.length).toNat = l.length := toNat_ofNat_of_lt (by omega)
    obtain ⟨u, hu, hready', hcfg', hwritten⟩ := issue_wrsym hready (idx := BitVec.ofNat 16 l.length) (by omega) c
    obtain ⟨hinv', -⟩ := hinv.after_issue hready hu
    refine ⟨u, ?_, hinv', hready', hcfg'.trans hcfg, fun hc => ?_⟩
    · rw [List.mapIdx_concat, issueAll_append, ht, andThen, issueAll_singleton, hu]
    · rw [hwritten (hcfg.trans hc), hidx]
      exact (hlists hc).append c

/-! ## What `build_alphabet` answers -/

/-- The operand of CFG is the count, as far as the checks of R93 and R94 can tell (R82). -/
theorem saturate_lt_iff (n : Nat) : (saturate n).toNat < 16 ↔ n < 16 := by
  rw [saturate_toNat]
  omega

theorem lt_saturate_iff (n : Nat) : 256 < (saturate n).toNat ↔ 256 < n := by
  rw [saturate_toNat]
  omega

/-- `build_alphabet` of n symbols ends with the outcome of CFG on a block u that lists them, and reads ERR, B and W of the
block t that CFG leaves. -/
theorem Inv.buildAlphabetOf_outcome (h : Inv s) (hs : s.ReadyQuiet) (syms : List Sym) (n : Nat) :
    ∃ u t, CfgOutcome u (saturate n) t ∧ Inv t ∧ u.cfgOk = s.cfgOk ∧ (s.cfgOk = false → u.Lists (syms.take 256)) ∧
      buildAlphabetOf syms n s = some (if t.err = .ok then .ok (t.b.toNat, t.w.toNat) else .error t.err, t) := by
  obtain ⟨u, hwrites, hinv, hready, hcfg, hlists⟩ := h.issueAll_wrsym hs _ (List.length_take_le 256 syms)
  obtain ⟨t, hissue, hout⟩ := issue_cfg_outcome hready (saturate n)
  obtain ⟨hinvT, hidle⟩ := hinv.after_issue hready hissue
  obtain ⟨hopk, -⟩ := hout.frame
  have hdone : t.done = true := State.done_iff.2 ⟨hidle, by rw [hopk]; nofun⟩
  have hbeats : issueAll (buildAlphabetBeats syms n) s = .next t := by
    rw [buildAlphabetBeats, writeSymbolBeats, issueAll_append, hwrites, andThen, issueAll_singleton, hissue]
  refine ⟨u, t, hout, hinvT, hcfg, hlists, ?_⟩
  split
  case isTrue hok => exact call_of_ok hbeats hdone hok rfl
  case isFalse herr => exact call_of_err hbeats hdone herr

section Clauses

variable (h : Inv s) (hs : s.ReadyQuiet)
include h hs

/-- R100. -/
theorem Inv.buildAlphabet_of_locked (hc : s.cfgOk = true) (syms : List Sym) :
    ∃ t, buildAlphabet syms s = some (.error .locked, t) := by
  obtain ⟨u, t, hout, -, hcfg, -, hbuild⟩ := h.buildAlphabetOf_outcome hs syms syms.length
  obtain rfl := hout.eq_of_locked (hcfg.trans hc)
  exact ⟨_, hbuild⟩

variable (hc : s.cfgOk = false)
include hc

/-- R93, whatever the symbols are. -/
theorem Inv.buildAlphabetOf_few {n : Nat} (hn : n < 16) (syms : List Sym) :
    ∃ t, buildAlphabetOf syms n s = some (.error .alphaFew, t) := by
  obtain ⟨u, t, hout, -, hcfg, -, hbuild⟩ := h.buildAlphabetOf_outcome hs syms n
  obtain rfl := hout.eq_of_few (hcfg.trans hc) ((saturate_lt_iff n).2 hn)
  exact ⟨_, hbuild⟩

/-- R94, whatever the symbols are. -/
theorem Inv.buildAlphabetOf_many {n : Nat} (hn : 256 < n) (syms : List Sym) :
    ∃ t, buildAlphabetOf syms n s = some (.error .alphaMany, t) := by
  obtain ⟨u, t, hout, -, hcfg, -, hbuild⟩ := h.buildAlphabetOf_outcome hs syms n
  obtain rfl := hout.eq_of_many (hcfg.trans hc) ((lt_saturate_iff n).2 hn)
  exact ⟨_, hbuild⟩

variable {syms : List Sym} (h16 : 16 ≤ syms.length) (h256 : syms.length ≤ 256)
include h16 h256

/-- With a count in range CFG scans the very symbols that were given. -/
theorem Inv.buildAlphabet_outcome :
    ∃ u t, CfgOutcome u (saturate syms.length) t ∧ Inv t ∧ u.cfgOk = false ∧
      (saturate syms.length).toNat = syms.length ∧
      u.Lists syms ∧
      buildAlphabet syms s = some (if t.err = .ok then .ok (t.b.toNat, t.w.toNat) else .error t.err, t) := by
  obtain ⟨u, t, hout, hinv, hcfg, hlists, hbuild⟩ := h.buildAlphabetOf_outcome hs syms syms.length
  have hn : (saturate syms.length).toNat = syms.length := by rw [saturate_toNat]; omega
  rw [List.take_of_length_le h256] at hlists
  exact ⟨u, t, hout, hinv, hcfg.trans hc, hn, hlists hc, hbuild⟩

/-- R95. -/
theorem Inv.buildAlphabet_duplicate (hdup : ¬syms.Nodup) : ∃ t, buildAlphabet syms s = some (.error .alphaDup, t) := by
  obtain ⟨u, t, hout, -, hcu, hn, hlists, hbuild⟩ := h.buildAlphabet_outcome hs hc h16 h256
  have hrep : ∃ i, i < syms.length ∧ u.RepeatsAt i := by simpa [hlists.nodup_iff] using hdup
  obtain ⟨i, -, -, -, rfl⟩ := hout.eq_of_repeat hcu (by omega) (by omega) (by rwa [hn])
  exact ⟨_, hbuild⟩

/-- R96, and what the block then holds (R97). -/
theorem Inv.buildAlphabet_built (hnodup : syms.Nodup) :
    ∃ t, buildAlphabet syms s = some (.ok (syms.length, width syms.length), t) ∧ t.cfgOk = true ∧
      ∀ i c, syms[i]? = some c → t.fwdAt i = c ∧ t.revAt c = some (BitVec.ofNat 8 i) := by
  obtain ⟨u, t, hout, hinv, hcu, hn, hlists, hbuild⟩ := h.buildAlphabet_outcome hs hc h16 h256
  obtain ⟨-, hfwd, -, -, -, -, -, hresets⟩ := hout.frame
  have hlistsT : t.Lists syms := (State.lists_congr (funext (State.fwdAt_congr hfwd hresets))).2 hlists
  obtain rfl := hout.eq_of_distinct hcu (by omega) (by omega) (by rw [hn]; exact hlists.nodup_iff.1 hnodup)
  rw [hn] at hbuild hlistsT hinv
  generalize ht : ((u.cfgScanned (saturate syms.length) syms.length).lockAlphabet syms.length).complete .ok 0 = t at *
  have hct : t.cfgOk = true := ht ▸ rfl
  have hok : t.err = .ok := ht ▸ rfl
  have hb : t.b.toNat = syms.length := ht ▸ toNat_ofNat_of_lt (by omega)
  obtain ⟨-, -, hw, -⟩ := hinv.configured hct
  rw [if_pos hok, hw, hb] at hbuild
  refine ⟨t, hbuild, hct, fun i c hi => ?_⟩
  obtain ⟨hlt, -⟩ := List.getElem?_eq_some_iff.1 hi
  obtain rfl := hlistsT i c hi
  exact ⟨rfl, hinv.revAt_fwdAt hct (by omega)⟩

end Clauses

/-- A driver answers once. -/
theorem Reply.unique {α : Type} {r : Reply α} {a b : Except ErrCode α} {u : State} (ha : r = some (a, t))
    (hb : r = some (b, u)) : a = b ∧ t = u :=
  Prod.mk.inj (Option.some.inj (ha.symm.trans hb))

/-- Settles O52: the symbols are in FWD when CFG starts, and each outcome of CFG is one answer. -/
theorem buildAlphabetOutcome : Obligations.BuildAlphabetOutcome := by
  intro syms s h hs
  obtain ⟨-, t, -, -, -, -, hbuild⟩ := h.buildAlphabetOf_outcome hs syms syms.length
  refine ⟨_, t, hbuild, fun hc => ?_, fun hc hn => ?_, fun hc hn => ?_, fun hc h16 h256 hdup => ?_,
    fun hc h16 h256 hnodup => ?_⟩
  · obtain ⟨_, hans⟩ := h.buildAlphabet_of_locked hs hc syms
    exact (Reply.unique hbuild hans).1
  · obtain ⟨_, hans⟩ := h.buildAlphabetOf_few hs hc hn syms
    exact (Reply.unique hbuild hans).1
  · obtain ⟨_, hans⟩ := h.buildAlphabetOf_many hs hc hn syms
    exact (Reply.unique hbuild hans).1
  · obtain ⟨_, hans⟩ := h.buildAlphabet_duplicate hs hc h16 h256 hdup
    exact (Reply.unique hbuild hans).1
  · obtain ⟨_, hans, hbuilt⟩ := h.buildAlphabet_built hs hc h16 h256 hnodup
    obtain ⟨heq, rfl⟩ := Reply.unique hbuild hans
    exact ⟨heq, hbuilt⟩

end Sys2Proof.Machine
end

section
/-! PROOFS. Building a codec from graphemes (`44_host_framing.md` R169, R171): the count is answered whatever codes there
are, and with a count in range the codes of all symbols go to `build_alphabet`. -/

namespace Sys2Proof.Machine

variable {s : State} {m : CodeMap} {symbols : List Grapheme}

theorem length_of_mapM_eq_some {α β : Type} {f : α → Option β} {l : List α} {ds : List β} (hds : l.mapM f = some ds) :
    ds.length = l.length := by
  simpa using congrArg List.length (mapM_eq_some_iff_map.1 hds).symm

/-- With a count outside 16..256 some symbols are given to `build_alphabet`, or none (log entry 12). -/
theorem buildCodec_of_count (hn : symbols.length < 16 ∨ 256 < symbols.length) :
    ∃ codes, buildCodec m symbols s = alphabetAnswer s (buildAlphabetOf codes symbols.length s) := by
  rw [buildCodec]
  cases (symbols.take 256).mapM (codeOf? m) with
  | some codes => exact ⟨codes, rfl⟩
  | none => exact ⟨[], if_pos hn⟩

/-- At most 256 symbols that all have codes are given to `build_alphabet` (R169). -/
theorem buildCodec_of_codes {codes : List Sym} (h256 : symbols.length ≤ 256)
    (hcodes : symbols.mapM (codeOf? m) = some codes) :
    codes.length = symbols.length ∧ buildCodec m symbols s = alphabetAnswer s (buildAlphabet codes s) := by
  have hlen := length_of_mapM_eq_some hcodes
  refine ⟨hlen, ?_⟩
  rw [buildCodec, List.take_of_length_le h256, hcodes, buildAlphabet, hlen]

/-- Settles O57: the answers of `build_alphabet` in the kinds a caller sees. -/
theorem buildCodecOutcome : Obligations.BuildCodecOutcome := by
  intro m symbols s h hs hc
  refine ⟨fun hn => ?_, fun hn => ?_, fun codes h16 h256 hcodes => ?_⟩
  · obtain ⟨codes, hbuild⟩ := buildCodec_of_count (m := m) (s := s) (.inl hn)
    obtain ⟨t, hans⟩ := h.buildAlphabetOf_few hs hc hn codes
    rw [hbuild, hans]
    rfl
  · obtain ⟨codes, hbuild⟩ := buildCodec_of_count (m := m) (s := s) (.inr hn)
    obtain ⟨t, hans⟩ := h.buildAlphabetOf_many hs hc hn codes
    rw [hbuild, hans]
    rfl
  · obtain ⟨hlen, hbuild⟩ := buildCodec_of_codes (s := s) h256 hcodes
    rw [← hlen] at h16 h256
    rw [hbuild, ← hlen]
    refine ⟨fun hdup => ?_, fun hnodup => ?_⟩
    · obtain ⟨t, hans⟩ := h.buildAlphabet_duplicate hs hc h16 h256 hdup
      rw [hans]
      rfl
    · obtain ⟨t, hans, hbuilt⟩ := h.buildAlphabet_built hs hc h16 h256 hnodup
      rw [hans]
      exact ⟨t, rfl, hbuilt⟩

end Sys2Proof.Machine
end

section
/-! PROOFS. The written forms of a UUID (`44_host_framing.md` R156 to R158): what `stripHyphens` and `unbrace` accept, and
with them the four shapes. -/

namespace Sys2Proof.Machine

variable {t h : List Char}

/-! ## Hyphens -/

/-- `Hyphenated h t`: h is 32 characters, and t is h in the groups 8-4-4-4-12 (R156). -/
inductive Hyphenated : List Char → List Char → Prop
  | groups (a b c d e : List Char) (ha : a.length = 8) (hb : b.length = 4) (hc : c.length = 4) (hd : d.length = 4)
      (he : e.length = 12) : Hyphenated (a ++ b ++ c ++ d ++ e) (a ++ '-' :: (b ++ '-' :: (c ++ '-' :: (d ++ '-' :: e))))

theorem Hyphenated.hyphenate_eq (hg : Hyphenated h t) : hyphenate h = t := by
  obtain ⟨a, b, c, d, e, ha, hb, hc, hd, he⟩ := hg
  simp [hyphenate, List.drop_append, List.drop_eq_nil_of_le, ha, hb, hc, hd]

theorem Hyphenated.stripHyphens_eq (hg : Hyphenated h t) : stripHyphens t = some h := by
  obtain ⟨a, b, c, d, e, ha, hb, hc, hd, he⟩ := hg
  simp [stripHyphens, List.drop_append, List.drop_eq_nil_of_le, ha, hb, hc, hd, he]

/-- Where the hyphens are. -/
theorem Hyphenated.getElem?_eq (hg : Hyphenated h t) {k : Nat} (hk : k ∈ [8, 13, 18, 23]) : t[k]? = some '-' := by
  obtain ⟨a, b, c, d, e, ha, hb, hc, hd, he⟩ := hg
  simp only [List.mem_cons, List.not_mem_nil, or_false] at hk
  obtain rfl | rfl | rfl | rfl := hk <;> simp [List.getElem?_append, ha, hb, hc, hd]

theorem Hyphenated.length_eq (hg : Hyphenated h t) : h.length = 32 ∧ t.length = 36 := by
  obtain ⟨a, b, c, d, e, ha, hb, hc, hd, he⟩ := hg
  simp [ha, hb, hc, hd, he]

/-- Any 32 characters can be hyphenated. -/
theorem hyphenated_of_length (hlen : h.length = 32) : Hyphenated h (hyphenate h) := by
  have hgroups : h.take 8 ++ (h.drop 8).take 4 ++ (h.drop 12).take 4 ++ (h.drop 16).take 4 ++ h.drop 20 = h := by
    have hjoin (n : Nat) : (h.drop n).take 4 ++ h.drop (n + 4) = h.drop n := by
      rw [← List.drop_drop, List.take_append_drop]
    simp only [List.append_assoc, hjoin 8, hjoin 12, hjoin 16, List.take_append_drop]
  have hg := Hyphenated.groups (h.take 8) ((h.drop 8).take 4) ((h.drop 12).take 4) ((h.drop 16).take 4) (h.drop 20)
    (by simp [hlen]) (by simp [hlen]) (by simp [hlen]) (by simp [hlen]) (by simp [hlen])
  rw [hgroups] at hg
  rwa [hg.hyphenate_eq]

/-- A list splits at any of its elements. -/
theorem exists_eq_append_cons {α : Type} {l : List α} {n : Nat} {x : α} (hx : l[n]? = some x) :
    ∃ a r, a.length = n ∧ l = a ++ x :: r := by
  obtain ⟨hn, rfl⟩ := List.getElem?_eq_some_iff.1 hx
  refine ⟨l.take n, l.drop (n + 1), List.length_take_of_le hn.le, ?_⟩
  rw [← List.drop_eq_getElem_cons, List.take_append_drop]

/-- 36 characters with hyphens in the four places are a hyphenated form. -/
theorem exists_hyphenated (hlen : t.length = 36) (h8 : t[8]? = some '-') (h13 : t[13]? = some '-')
    (h18 : t[18]? = some '-') (h23 : t[23]? = some '-') : ∃ h, Hyphenated h t := by
  obtain ⟨a, t, ha, rfl⟩ := exists_eq_append_cons h8
  obtain ⟨b, t, hb, rfl⟩ := exists_eq_append_cons (l := t) (n := 4) (x := '-')
    (by simpa [List.getElem?_append, ha] using h13)
  obtain ⟨c, t, hc, rfl⟩ := exists_eq_append_cons (l := t) (n := 4) (x := '-')
    (by simpa [List.getElem?_append, ha, hb] using h18)
  obtain ⟨d, e, hd, rfl⟩ := exists_eq_append_cons (l := t) (n := 4) (x := '-')
    (by simpa [List.getElem?_append, ha, hb, hc] using h23)
  exact ⟨_, .groups a b c d e ha hb hc hd (by simp [ha, hb, hc, hd] at hlen; omega)⟩

/-- What `stripHyphens` accepts: 32 characters, with no hyphens or with four (R156). -/
theorem stripHyphens_eq_some_iff : stripHyphens t = some h ↔ h.length = 32 ∧ (t = h ∨ t = hyphenate h) := by
  constructor
  · intro hstrip
    have hdef := hstrip
    rw [stripHyphens] at hdef
    split_ifs at hdef with h32 hyphens
    · obtain rfl := Option.some.inj hdef
      exact ⟨h32, .inl rfl⟩
    · obtain ⟨h36, h8, h13, h18, h23⟩ := hyphens
      obtain ⟨d, hg⟩ := exists_hyphenated h36 h8 h13 h18 h23
      obtain rfl := Option.some.inj (hg.stripHyphens_eq.symm.trans hstrip)
      exact ⟨hg.length_eq.1, .inr hg.hyphenate_eq.symm⟩
  · rintro ⟨hlen, rfl | rfl⟩
    · rw [stripHyphens, if_pos hlen]
    · exact (hyphenated_of_length hlen).stripHyphens_eq

/-! ## Braces -/

/-- What `unbrace` accepts: a pair of braces, or no opening one (R156). -/
theorem unbrace_eq_some_iff {text : List Char} :
    unbrace text = some t ↔ text = leftBrace :: (t ++ [rightBrace]) ∨ (text = t ∧ text.head? ≠ some leftBrace) := by
  cases text with
  | nil => exact ⟨fun heq => .inr ⟨Option.some.inj heq, nofun⟩,
      fun hshape => hshape.elim nofun fun ⟨heq, _⟩ => congrArg some heq⟩
  | cons c rest =>
    rw [unbrace, List.head?_cons, List.cons.injEq, ne_eq, Option.some.injEq]
    by_cases hc : c = leftBrace
    · have hlast : rest.getLast? = some rightBrace ∧ rest.dropLast = t ↔ rest = t ++ [rightBrace] := by
        rw [List.getLast?_eq_some_iff]
        constructor
        · rintro ⟨⟨_, rfl⟩, rfl⟩
          rw [List.dropLast_concat]
        · rintro rfl
          exact ⟨⟨t, rfl⟩, List.dropLast_concat⟩
      rw [if_pos hc, Option.ite_none_right_eq_some, Option.some.injEq, hlast]
      simp only [hc, true_and, not_true_eq_false, and_false, or_false]
    · simp only [hc, if_false, false_and, false_or, not_false_eq_true, and_true, Option.some.injEq]

/-! ## The four shapes -/

/-- What `normalize_uuid_input` accepts of strings: what the two strippings leave, if it is hexadecimal digits (R156). -/
theorem normalizeUuid_eq_some_iff {text : List Char} : normalizeUuid text = some h ↔
    (∃ t, unbrace text = some t ∧ stripHyphens t = some h) ∧ ∀ c ∈ h, hexDigitValue c ≠ none := by
  rw [normalizeUuid, ← Option.bind_eq_some_iff]
  cases (unbrace text).bind stripHyphens with
  | none => simp
  | some d =>
    simp only [Option.ite_none_right_eq_some, List.all_eq_true, Option.isSome_iff_ne_none, Option.some.injEq]
    exact ⟨fun ⟨hall, heq⟩ => ⟨heq, heq ▸ hall⟩, fun ⟨heq, hall⟩ => ⟨heq ▸ hall, heq⟩⟩

theorem hexDigitValue_leftBrace : hexDigitValue leftBrace = none := by
  decide

/-- 32 hexadecimal digits do not begin with a brace, hyphenated or not. -/
theorem head?_ne_leftBrace (hlen : h.length = 32) (hhex : ∀ c ∈ h, hexDigitValue c ≠ none)
    (ht : t = h ∨ t = hyphenate h) :
    t.head? ≠ some leftBrace := by
  have hhead : t.head? = h.head? := by
    obtain rfl | rfl := ht
    · rfl
    · cases h with
      | nil => cases hlen
      | cons c h => rfl
  rw [hhead]
  intro hbrace
  exact hhex leftBrace (List.mem_of_mem_head? hbrace) hexDigitValue_leftBrace

/-- Settles O53: a string is accepted when it is `t` with or without braces, and `t` is the digits with or without
hyphens. -/
theorem normalizeAcceptsExactlyFourShapes : Obligations.NormalizeAcceptsExactlyFourShapes := by
  intro input h
  cases input with
  | binary bytes => simp [normalizeUuidInput]
  | notString => simp [normalizeUuidInput]
  | text cs =>
    simp only [normalizeUuidInput, normalizeUuid_eq_some_iff, unbrace_eq_some_iff, stripHyphens_eq_some_iff,
      UuidInput.text.injEq]
    constructor
    · rintro ⟨⟨t, htext, hlen, ht⟩, hhex⟩
      refine ⟨hlen, hhex, ?_⟩
      obtain rfl | rfl := ht <;> obtain htext | ⟨htext, -⟩ := htext
      · exact .inr (.inr (.inl htext))
      · exact .inl htext
      · exact .inr (.inr (.inr htext))
      · exact .inr (.inl htext)
    · rintro ⟨hlen, hhex, hshape⟩
      have hbare {t : List Char} (ht : t = h ∨ t = hyphenate h) := head?_ne_leftBrace hlen hhex ht
      refine ⟨?_, hhex⟩
      obtain rfl | rfl | rfl | rfl := hshape
      · exact ⟨cs, .inr ⟨rfl, hbare (.inl rfl)⟩, hlen, .inl rfl⟩
      · exact ⟨_, .inr ⟨rfl, hbare (.inr rfl)⟩, hlen, .inr rfl⟩
      · exact ⟨_, .inl rfl, hlen, .inl rfl⟩
      · exact ⟨_, .inl rfl, hlen, .inr rfl⟩

end Sys2Proof.Machine
end

section
/-! PROOFS. The canonical form of a UUID (`44_host_framing.md` R159, R164): a value and its 32 lower-case digits. -/

namespace Sys2Proof.Machine

variable {h : List Char}

/-! ## Accepted digits -/

/-- Below code point 128, a digit that is read is written back in lower case. -/
theorem hexDigit_hexDigitValue_of_ascii :
    ∀ k < 128, ∀ n ∈ hexDigitValue (Char.ofNat k), n < 16 ∧ hexDigit n = (Char.ofNat k).toLower := by
  decide

/-- A digit that is read is written back in lower case. -/
theorem hexDigit_of_hexDigitValue {c : Char} {n : Nat} (hn : hexDigitValue c = some n) :
    n < 16 ∧ hexDigit n = c.toLower := by
  have hascii : c.toNat < 128 := by
    simp only [hexDigitValue] at hn
    split_ifs at hn <;> omega
  have hback := hexDigit_hexDigitValue_of_ascii c.toNat hascii
  rw [Char.ofNat_toNat] at hback
  exact hback n hn

theorem map_hexDigit_filterMap (hhex : ∀ c ∈ h, hexDigitValue c ≠ none) :
    (h.filterMap hexDigitValue).map hexDigit = h.map Char.toLower := by
  induction h with
  | nil => rfl
  | cons c h ih =>
    obtain ⟨hc, hh⟩ := List.forall_mem_cons.1 hhex
    obtain ⟨n, hn⟩ := Option.ne_none_iff_exists'.1 hc
    rw [List.filterMap_cons_some hn, List.map_cons, List.map_cons, ih hh, (hexDigit_of_hexDigitValue hn).2]

/-- The digits of a value are the digits of its numeral in base 16. -/
theorem hexDigits_eq (v : Value) : hexDigits v = (numeral 16 32 v.toNat).map hexDigit := by
  rw [hexDigits, numeral, List.map_map]
  rfl

theorem length_hexDigits (v : Value) : (hexDigits v).length = 32 := by
  rw [hexDigits_eq, List.length_map, length_numeral]

theorem numeral_16_lt (v : Value) : ∀ d ∈ numeral 16 32 v.toNat, d < 16 :=
  numeral_lt (by decide) 32 v.toNat

theorem hexDigits_isHex (v : Value) : ∀ c ∈ hexDigits v, hexDigitValue c ≠ none := by
  intro c hc
  rw [hexDigits_eq] at hc
  obtain ⟨d, hd, rfl⟩ := List.mem_map.1 hc
  rw [hexDigitValue_hexDigit (numeral_16_lt v d hd)]
  nofun

/-- The digits of a value have that value. -/
theorem hexValue_hexDigits (v : Value) : hexValue (hexDigits v) = v.toNat := by
  rw [hexDigits_eq, hexValue_map_hexDigit (numeral_16_lt v), placeValue_numeral (b := 16) (w := 32) v.isLt]

/-- 32 digits are, in lower case, the digits of their value. -/
theorem hexDigits_hexValue (hlen : h.length = 32) (hhex : ∀ c ∈ h, hexDigitValue c ≠ none) :
    ∃ v : Value, hexValue h = v.toNat ∧ hexDigits v = h.map Char.toLower := by
  have hlower := map_hexDigit_filterMap hhex
  have hds : ∀ d ∈ h.filterMap hexDigitValue, d < 16 := fun d hd => by
    obtain ⟨c, -, hc⟩ := List.mem_filterMap.1 hd
    exact (hexDigit_of_hexDigitValue hc).1
  have hcount : (h.filterMap hexDigitValue).length = 32 := by
    simpa [hlen] using congrArg List.length hlower
  have hlt : hexValue h < 2 ^ 128 := by
    simpa [hexValue, hcount] using placeValue_lt 16 _ hds
  have hv : (BitVec.ofNat 128 (hexValue h)).toNat = hexValue h := toNat_ofNat_of_lt hlt
  refine ⟨BitVec.ofNat 128 (hexValue h), hv.symm, ?_⟩
  rw [hexDigits_eq, hv, hexValue, ← hcount, numeral_placeValue hds, hlower]

/-- What is accepted is 32 hexadecimal digits. -/
theorem isHex_of_normalizeUuid {text : List Char} (hnorm : normalizeUuid text = some h) :
    h.length = 32 ∧ ∀ c ∈ h, hexDigitValue c ≠ none := by
  obtain ⟨hlen, hhex, -⟩ := (normalizeAcceptsExactlyFourShapes (.text text) h).1 hnorm
  exact ⟨hlen, hhex⟩

/-! ## The canonical form -/

/-- The canonical form is the second of the four shapes, of the digits of the value. -/
theorem normalizeUuid_formatUuid (v : Value) : normalizeUuid (formatUuid v) = some (hexDigits v) :=
  (normalizeAcceptsExactlyFourShapes (.text (formatUuid v)) (hexDigits v)).2
    ⟨length_hexDigits v, hexDigits_isHex v, .inr (.inl rfl)⟩

/-- Digit k of a value is its nibble at bit 124 - 4k (R164). -/
theorem getElem?_hexDigits (v : Value) {k : Nat} (hk : k < 32) :
    (hexDigits v)[k]? = some (hexDigit (v.extractLsb' (124 - 4 * k) 4).toNat) := by
  have hdigit : digitAt 16 32 v.toNat k = (v.extractLsb' (124 - 4 * k) 4).toNat := by
    rw [show 124 - 4 * k = 4 * (32 - 1 - k) by omega]
    exact digitAt_two_pow 4 32 v k
  rw [hexDigits, List.getElem?_map, List.getElem?_range hk, Option.map_some, hdigit]

/-- Settles O54: the hyphens stand between the five groups, and 32 digits are the numeral of their value. -/
theorem canonicalFormReadsBack : Obligations.CanonicalFormReadsBack := by
  refine ⟨fun v => ?_, fun text h hnorm => ?_⟩
  · have hg := hyphenated_of_length (length_hexDigits v)
    exact ⟨hg.length_eq.2, normalizeUuid_formatUuid v, hexValue_hexDigits v, fun k hk => getElem?_hexDigits v hk,
      fun k hk => hg.getElem?_eq hk⟩
  · obtain ⟨hlen, hhex⟩ := isHex_of_normalizeUuid hnorm
    obtain ⟨v, hv, hdigits⟩ := hexDigits_hexValue hlen hhex
    rw [hv, BitVec.ofNat_toNat, BitVec.setWidth_eq, formatUuid, hdigits]

end Sys2Proof.Machine
end

section
/-! PROOFS. The codec (`44_host_framing.md` R160 to R171): the code mapping there and back, what `encode` and `decode`
answer on a built codec, and the round trip. -/

namespace Sys2Proof.Machine

variable {s t : State} {m : CodeMap}

/-! ## The code mapping -/

/-- Where no two elements have one key, the search for a key finds the element that has it. -/
theorem find?_key {α κ : Type} [DecidableEq κ] {key : α → κ} {l : List α} (hl : (l.map key).Nodup) {a : α} (ha : a ∈ l) :
    l.find? (fun b => decide (key b = key a)) = some a := by
  obtain ⟨b, hb⟩ := Option.isSome_iff_exists.1
    (List.find?_isSome (p := fun b => decide (key b = key a)).2 ⟨a, ha, decide_eq_true rfl⟩)
  have hkey : key b = key a := by simpa using List.find?_some hb
  rw [hb, List.inj_on_of_nodup_map hl (List.mem_of_find?_eq_some hb) ha hkey]

theorem codeOf?_of_mem (hm : codeMapInjective m) {g : Grapheme} {c : Sym} (hmem : (g, c) ∈ m) : codeOf? m g = some c := by
  rw [codeOf?, find?_key hm.1 hmem]
  rfl

theorem graphemeOf?_of_mem (hm : codeMapInjective m) {g : Grapheme} {c : Sym} (hmem : (g, c) ∈ m) :
    graphemeOf? m c = some g := by
  rw [graphemeOf?, find?_key hm.2 hmem]
  rfl

/-- Codes that the mapping has are written as graphemes that give the codes back (R171). -/
theorem exists_graphemes (hm : codeMapInjective m) {codes : List Sym} (hcodes : ∀ c ∈ codes, ∃ g, (g, c) ∈ m) :
    ∃ gs, codes.mapM (graphemeOf? m) = some gs ∧ gs.mapM (codeOf? m) = some codes := by
  induction codes with
  | nil => exact ⟨[], rfl, rfl⟩
  | cons c codes ih =>
    obtain ⟨⟨g, hg⟩, hcodes⟩ := List.forall_mem_cons.1 hcodes
    obtain ⟨gs, hgs, hback⟩ := ih hcodes
    refine ⟨g :: gs, ?_, ?_⟩
    · rw [List.mapM_cons, graphemeOf?_of_mem hm hg, hgs]
      rfl
    · rw [List.mapM_cons, codeOf?_of_mem hm hg, hback]
      rfl

/-! ## What `decode` does before and after the block -/

theorem decodeUuid_of_ok {input : List Grapheme} {v : Value} (hans : decodeGraphemes m input s = some (.ok v, t)) :
    decodeUuid m input s = (.ok (formatUuid v), t) := by
  rw [decodeUuid, hans]

theorem decodeUuid_of_error {input : List Grapheme} {e : ErrCode}
    (hans : decodeGraphemes m input s = some (.error e, t)) :
    decodeUuid m input s = (.error (decodeError e), t) := by
  rw [decodeUuid, hans]

section RightLength

variable {input : List Grapheme} (hlen : input.length = s.w.toNat)
include hlen

/-- A grapheme with no code is reported without a DEC (R171). -/
theorem decodeGraphemes_of_noCode (hnone : ∃ g ∈ input, codeOf? m g = none) :
    decodeGraphemes m input s = some (.error .decChar, s) := by
  have hmap : input.mapM (codeOf? m) = none := by
    rw [Option.eq_none_iff_forall_ne_some]
    intro codes hcodes
    obtain ⟨g, hg, hcode⟩ := hnone
    exact exists_mapM_eq_some_iff.1 ⟨codes, hcodes⟩ g hg hcode
  rw [decodeGraphemes, if_neg (not_not_intro hlen), hmap]

theorem decodeGraphemes_of_codes {codes : List Sym} (hcodes : input.mapM (codeOf? m) = some codes) :
    decodeGraphemes m input s = decodeString codes s := by
  rw [decodeGraphemes, if_neg (not_not_intro hlen), hcodes]

end RightLength

/-! ## A built codec -/

theorem State.length_symbolsOf (s : State) (v : Value) : (s.symbolsOf v).length = s.w.toNat := by
  rw [State.symbolsOf, List.length_map, length_numeral]

section Codec

variable (h : Inv s) (hs : s.ReadyQuiet) (hc : s.cfgOk = true) (hm : codeMapInjective m)
  (hcover : ∀ d, d < s.b.toNat → ∃ g, (g, s.fwdAt d) ∈ m)

include h hc hm hcover in
/-- The string of a value has graphemes, which give its symbols back. -/
theorem Inv.exists_graphemes_symbolsOf (v : Value) : ∃ gs, (s.symbolsOf v).mapM (graphemeOf? m) = some gs ∧
    gs.mapM (codeOf? m) = some (s.symbolsOf v) := by
  refine exists_graphemes hm fun c hmem => ?_
  obtain ⟨d, hd, rfl⟩ := List.mem_map.1 hmem
  exact hcover d (numeral_lt (h.radix_pos hc) _ _ d hd)

include h hs hc

/-- `encode` of an accepted input answers the graphemes of its value (R160). -/
theorem Inv.encodeUuid_answers {input : UuidInput} {d : List Char} {v : Value} {gs : List Grapheme}
    (hnorm : normalizeUuidInput input = some d) (hd : hexValue d = v.toNat)
    (hgs : (s.symbolsOf v).mapM (graphemeOf? m) = some gs) : ∃ t, encodeUuid m input s = (.ok gs, t) ∧ s.GoesOnTo t := by
  obtain ⟨t, henc, hgo⟩ := h.encodeInt_answers hc hs v
  refine ⟨t, ?_, hgo⟩
  simp only [encodeUuid, hnorm, hd, henc, hgs]

/-- `decode` of the graphemes of a value answers its canonical form (R162, R164). -/
theorem Inv.decodeUuid_symbolsOf {v : Value} {gs : List Grapheme} (hgs : gs.mapM (codeOf? m) = some (s.symbolsOf v)) :
    ∃ t, decodeUuid m gs s = (.ok (formatUuid v), t) := by
  have hlen : gs.length = s.w.toNat := (length_of_mapM_eq_some hgs).symm.trans (s.length_symbolsOf v)
  obtain ⟨t, hdec⟩ := (h.decodeString_eq_ok_iff hc hs _ v).2 rfl
  exact ⟨t, decodeUuid_of_ok ((decodeGraphemes_of_codes hlen hgs).trans hdec)⟩

end Codec

/-- Settles O55: an accepted text has the digits of a value, whose string of W symbols goes to graphemes and back; texts
with the same lower-case digits have the same value. -/
theorem uuidRoundTrip : Obligations.UuidRoundTrip := by
  intro m text d s h hs hc hm hcover hnorm
  obtain ⟨hlen, hhex⟩ := isHex_of_normalizeUuid hnorm
  obtain ⟨v, hv, hdigits⟩ := hexDigits_hexValue hlen hhex
  obtain ⟨gs, hgs, hback⟩ := h.exists_graphemes_symbolsOf hc hm hcover v
  obtain ⟨t, henc, hgo⟩ := h.encodeUuid_answers hs hc (input := .text text) hnorm hv hgs
  rw [← hgo.symbolsOf v] at hback
  obtain ⟨u, hdec⟩ := hgo.inv.decodeUuid_symbolsOf hgo.ready (hgo.cfgOk.trans hc) hback
  refine ⟨gs, t, u, henc, ?_, ?_, fun text' d' hnorm' hsame => ?_⟩
  · rw [← length_of_mapM_eq_some hback, hgo.symbolsOf, s.length_symbolsOf]
  · rw [hdec, formatUuid, hdigits]
  · obtain ⟨hlen', hhex'⟩ := isHex_of_normalizeUuid hnorm'
    obtain ⟨v', hv', hdigits'⟩ := hexDigits_hexValue hlen' hhex'
    have hvalue : v'.toNat = v.toNat := by
      rw [← hexValue_hexDigits v', ← hexValue_hexDigits v, hdigits', hdigits, hsame]
    obtain ⟨t', henc', -⟩ := h.encodeUuid_answers hs hc (input := .text text') hnorm' (hv'.trans hvalue) hgs
    rw [henc']

/-- Settles O56: `encode` fails in `normalize_uuid_input` only; `decode` passes on the first error of `decode_string`. -/
theorem callerErrorsCollapse : Obligations.CallerErrorsCollapse := by
  intro m s h hs hc hm hcover
  refine ⟨fun input => ⟨fun hnone => ?_, fun hsome => ?_⟩, fun input hlen => ?_, fun input hlen hnone => ?_,
    fun input codes hlen hcodes => ?_⟩
  · rw [encodeUuid, hnone]
  · obtain ⟨d, hnorm⟩ := Option.ne_none_iff_exists'.1 hsome
    obtain ⟨hdlen, hhex, -⟩ := (normalizeAcceptsExactlyFourShapes input d).1 hnorm
    obtain ⟨v, hv, -⟩ := hexDigits_hexValue hdlen hhex
    obtain ⟨gs, hgs, -⟩ := h.exists_graphemes_symbolsOf hc hm hcover v
    obtain ⟨t, henc, -⟩ := h.encodeUuid_answers hs hc hnorm hv hgs
    exact ⟨gs, by rw [henc]⟩
  · have hans : decodeGraphemes m input s = some (.error .decLen, s) := if_pos hlen
    rw [decodeUuid_of_error hans]
    rfl
  · rw [decodeUuid_of_error (decodeGraphemes_of_noCode hlen hnone)]
    rfl
  · have hclen : codes.length = s.w.toNat := (length_of_mapM_eq_some hcodes).trans hlen
    obtain ⟨ans, t, hdec, -, hbad, hval⟩ := decodeStringReportsTheFirstError codes s h hs hc
    rw [← decodeGraphemes_of_codes hlen hcodes] at hdec
    refine ⟨fun hnone => ?_, fun ds hds => ⟨fun hlarge => ?_, fun hfits => ?_⟩⟩
    · obtain ⟨rfl, -⟩ := hbad hclen hnone
      rw [decodeUuid_of_error hdec]
      rfl
    · obtain ⟨rfl, -⟩ := (hval ds hclen hds).1 hlarge
      rw [decodeUuid_of_error hdec]
      rfl
    · obtain rfl := (hval ds hclen hds).2 hfits
      rw [decodeUuid_of_ok hdec]

end Sys2Proof.Machine
end

section
/-! PROOFS. Errors (`60_exceptions.md`): the numbers of the codes (R181), which steps record which code (R185), what a
command that completes with an error leaves (R191), and the idle block (R199). -/

namespace Sys2Proof.Machine

variable {s t u : State} {i : Instr}

/-! ## The numbers of the codes (R181, V9) -/

theorem ErrCode.code_le (e : ErrCode) : e.code.toNat ≤ 12 := by
  cases e <;> decide

/-- Only `E_ENC_RANGE` has the number 4. -/
theorem ErrCode.code_eq_four_iff (e : ErrCode) : e.code = 4 ↔ e = .encRange := by
  cases e <;> decide

theorem State.err_port (s : State) (k : Nat) : (s.ports k).err = s.err.code := rfl

/-- The port never shows the number of the code that the hardware never writes (R181, V9). -/
theorem Inv.err_port (h : Inv s) (k : Nat) : (s.ports k).err ≠ 4 ∧ (s.ports k).err.toNat ≤ 12 := by
  obtain ⟨hrange, -⟩ := h.errCode
  rw [State.err_port]
  exact ⟨mt (ErrCode.code_eq_four_iff _).1 hrange, s.err.code_le⟩

/-- Settles O59: the port shows the number of the code in ERR, and the invariant shuts out `E_ENC_RANGE`. -/
theorem errPortNumbersTheErrorCodes : Obligations.ErrPortNumbersTheErrorCodes := by
  refine ⟨fun s k => ?_, rfl, rfl, rfl, rfl⟩
  have port (e : ErrCode) (he : s.err = e) : (s.ports k).err = e.code := by rw [State.err_port, he]
  exact ⟨port .ok, port .alphaFew, port .alphaMany, port .alphaDup, port .encRange, port .encLen, port .decLen,
    port .decChar, port .decRange, port .noCfg, port .locked, port .badIdx, port .illCmd, fun h => h.err_port k⟩

/-! ## The idle block (R199) -/

theorem runStep_of_idle (hp : s.phase = .idle) : runStep s = .next s := by
  rw [runStep, hp]

theorem step_of_noBeat {p : PortIn} {rest : List PortIn} (hp : s.phase = .idle) (hin : s.inputs = p :: rest)
    (hr : p.reset = false) (hv : p.cmdValid = false) : step s = .next { s with inputs := rest } := by
  simp [step, hin, stepWith, hp, hr, hv]

/-- Settles O16: with an empty script the core takes an idle step; with an entry that offers nothing the handshake drops
the entry. -/
theorem readyBlockWithoutABeatKeepsItsState : Obligations.ReadyBlockWithoutABeatKeepsItsState :=
  fun _ hp => ⟨fun hin => (step_of_quiet hin).trans (runStep_of_idle hp), fun _ _ => step_of_noBeat hp⟩

/-! ## Accept-time faults (R185) -/

/-- An accept step writes the status registers and nothing else, or finds no error (R185). -/
theorem AcceptStep.status_or_ok (h : AcceptStep s i t) : (∃ e x, t = s.report (opKindOf i) e x) ∨ t.err = .ok := by
  cases h with
  | status _ e x => exact .inl ⟨e, x, rfl⟩
  | _ => exact .inr rfl

/-- A step of the core completes the command with one of its own codes, or leaves ERR (R185, R186). -/
theorem RunStep.err_not_acceptFault (h : RunStep s t) (herr : s.err = .ok) :
    t.err ∉ [.noCfg, .locked, .badIdx, .illCmd] := by
  have hkept : s.err ∉ [.noCfg, .locked, .badIdx, .illCmd] := by
    rw [herr]
    decide
  cases h with
  | idle | cfgScan | encDigit | decDigit => exact hkept
  | _ => simp

/-- Settles O29: an accept step with a code of the four is one that writes the status registers; a busy block accepts
nothing, and a step of the core, which starts with no error recorded, reports none of the four. -/
theorem acceptTimeFaultsWriteStatusOnly : Obligations.AcceptTimeFaultsWriteStatusOnly := by
  refine ⟨fun i s t hexec hfault => ?_, fun s t h hp hstep => ?_⟩
  · obtain ⟨e, x, rfl⟩ | hok := (AcceptStep.of_exec hexec).status_or_ok
    · rfl
    · rw [hok] at hfault
      exact absurd hfault (by decide)
  · obtain ⟨herr, -⟩ := h.running hp
    obtain ⟨l, ⟨-, rfl⟩ | ⟨i, hi, -⟩ | hr⟩ := step_agents hstep
    · rw [State.toReset_err]
      decide
    · exact absurd hi.phase_idle hp
    · exact hr.err_not_acceptFault herr

/-! ## What an error leaves (R191) -/

/-- An ENC or DEC that a configured block accepts runs (R110, R126). -/
theorem exec_busy_of_configured (hc : s.cfgOk = true) (hi : (∃ v, i = .enc v) ∨ ∃ n, i = .dec n)
    (hexec : exec i s = .next t) : t.phase ≠ .idle := by
  obtain ⟨v, rfl⟩ | ⟨n, rfl⟩ := hi
  · rw [exec_enc_of_configured hc] at hexec
    cases hexec
    exact Phase.noConfusion
  · rw [exec_dec_of_configured hc] at hexec
    cases hexec
    exact Phase.noConfusion

/-- A command that does not run is complete with its accept step. -/
theorem issue_of_exec (hs : s.ReadyQuiet) (hexec : exec i s = .next u) (hidle : u.phase = .idle) :
    issue (encode i) s = .next u := by
  obtain ⟨hp, hin⟩ := hs
  rw [issue_of_idle hp, decode_encode, withInputs_nil hin, hexec, andThen, waitReady_of_idle hidle]

/-- A CFG that fails leaves REV the empty map, which it is on an unconfigured block (R32, R191). -/
theorem CfgOutcome.keepsAlphabet {n : Idx} (hout : CfgOutcome s n t) (h : Inv s) (hp : s.phase = .idle)
    (herr : t.err ≠ .ok) : s.KeepsAlphabet t := by
  cases hout with
  | locked => exact ⟨rfl, rfl, rfl, rfl, rfl⟩
  | few hc | many hc | duplicate hc => exact ⟨rfl, (h.revEmpty hc hp).symm, rfl, rfl, rfl⟩
  | built => exact absurd rfl herr

/-- What a DEC that fails leaves besides the alphabet (R191). -/
theorem DecOutcome.noResult {len : Idx} (hout : DecOutcome s len t) (herr : t.err ≠ .ok) :
    t.opk = .dec ∧ t.ibuf = s.ibuf ∧ t.resV = false ∧ t.obufV = false := by
  cases hout with
  | length | badSymbol | tooLarge => exact ⟨rfl, rfl, rfl, rfl⟩
  | decoded => exact absurd rfl herr

/-- Settles O50: a command that reports an error in its accept step has written status only; of the commands that run,
CFG and DEC fail in outcomes that leave the alphabet, and ENC does not fail (R115). -/
theorem errorsLeaveTheAlphabet : Obligations.ErrorsLeaveTheAlphabet := by
  intro i s t h hs hissue herr
  obtain ⟨u, hexec⟩ := exec_answers i s
  have ends {r : State} (hr : issue (encode i) s = .next r) : t = r := Host.Outcome.next.inj (hissue.symm.trans hr)
  cases AcceptStep.of_exec hexec with
  | status =>
    obtain rfl := ends (issue_of_exec hs hexec hs.1)
    exact ⟨rfl, rfl, rfl, rfl, rfl, rfl, rfl, fun hc hi => (exec_busy_of_configured hc hi hexec hs.1).elim⟩
  | wrsym | wrin =>
    obtain rfl := ends (issue_of_exec hs hexec hs.1)
    exact absurd rfl herr
  | rst =>
    obtain rfl := ends (issue_of_exec hs hexec rfl)
    exact absurd rfl herr
  | cfg n hc =>
    obtain ⟨r, hr, hout⟩ := issue_cfg_outcome hs n
    obtain rfl := ends hr
    obtain ⟨hopk, -, hibuf, -⟩ := hout.frame
    obtain ⟨hfwd, hrev, hb, hw, hcfg⟩ := hout.keepsAlphabet h hs.1 herr
    exact ⟨hopk, hfwd, hb, hw, hcfg, hrev, hibuf, by simp [hc]⟩
  | enc v hc =>
    obtain ⟨m, hr, -⟩ := h.issue_enc hs hc v
    obtain rfl := ends hr
    exact absurd rfl herr
  | dec n hc =>
    obtain ⟨r, hr, hout⟩ := h.issue_dec_outcome hs hc n
    obtain rfl := ends hr
    obtain ⟨-, -, -, hfwd, hrev, hb, hw, hcfg⟩ := hout.frame
    obtain ⟨hopk, hibuf, hresV, hobufV⟩ := hout.noResult herr
    exact ⟨hopk, hfwd, hb, hw, hcfg, hrev, hibuf, fun _ _ => ⟨hresV, hobufV⟩⟩

end Sys2Proof.Machine
end

section
/-! PROOFS. The `reset` input (`70_reset_and_hazards.md` R205, R207), and the end of every RUN phase (R220). -/

namespace Sys2Proof.Machine

variable {s t : State}

/-! ## Every RUN phase ends (R220) -/

theorem run_succ_of_step (M : Host.Core) {n : Nat} {x y : M.State} (hstep : M.step x = .next y) :
    M.run (n + 1) x = M.run n y := by
  rw [Host.Core.run, hstep]

/-- A step of a busy block is one of the `reset` input, or of the core: no beat is accepted (R81). -/
theorem step_of_busy_cases (hp : s.phase ≠ .idle) (hstep : step s = .next t) :
    t.phase = .idle ∨ ∃ l, RunStep { s with inputs := l } t := by
  obtain ⟨l, ⟨-, rfl⟩ | ⟨i, hi, -⟩ | hr⟩ := step_agents hstep
  · exact .inl rfl
  · exact absurd hi.phase_idle hp
  · exact .inr ⟨l, hr⟩

/-- Every step of a busy block leaves fewer steps to come, since a reset too ends the RUN phase. -/
theorem Inv.stepsLeft_decreases_of_step (h : Inv s) (hp : s.phase ≠ .idle) (hstep : step s = .next t) :
    t.stepsLeft < s.stepsLeft := by
  obtain hidle | ⟨l, hr⟩ := step_of_busy_cases hp hstep
  · have hcnt := h.cntRange
    rw [State.stepsLeft, State.stepsLeft, if_pos hidle, if_neg hp]
    omega
  · exact (h.withInputs l).stepsLeft_decreases hp hr

/-- Whatever the host drives, a block of the invariant becomes ready. -/
theorem Inv.exists_run_idle (h : Inv s) : ∃ n t, Host.Core.run core n s = .next t ∧ t.phase = .idle := by
  induction hm : s.stepsLeft using Nat.strong_induction_on generalizing s with
  | _ m ih =>
    by_cases hp : s.phase = .idle
    · exact ⟨0, s, rfl, hp⟩
    · obtain ⟨u, hu⟩ := h.step_answers
      have hless := h.stepsLeft_decreases_of_step hp hu
      obtain ⟨n, t, hrun, hidle⟩ := ih u.stepsLeft (hm ▸ hless) (h.after_step hu) rfl
      exact ⟨n + 1, t, (run_succ_of_step core hu).trans hrun, hidle⟩

/-- CNT goes on by one within the bound of the running command: LEN for CFG, W for ENC and DEC (R220). -/
def State.CountsOnTo (s t : State) : Prop :=
  t.phase = s.phase ∧ t.cnt.toNat = s.cnt.toNat + 1 ∧
    (s.phase = .cfgRun → t.cnt.toNat ≤ s.len.toNat ∧ s.len.toNat ≤ 256) ∧
    (s.phase ≠ .cfgRun → t.cnt.toNat ≤ s.w.toNat ∧ s.w.toNat ≤ 32)

/-- A step of the core completes the running command, or is a digit step, which the rules allow below the bound only
(R95, R111, R128). -/
theorem Inv.completes_or_countsOnTo (h : Inv s) (hr : RunStep s t) : t.phase = .idle ∨ s.CountsOnTo t := by
  have hcnt : (s.cnt + 1).toNat = s.cnt.toNat + 1 := cnt_succ_toNat h.cntRange
  cases hr with
  | idle hp => exact .inl hp
  | cfgScan hp h16 h256 hlt => exact .inr ⟨rfl, hcnt, fun _ => ⟨hcnt.trans_le hlt, h256⟩, fun hne => absurd hp hne⟩
  | encDigit hp hlt =>
    obtain ⟨hw, -⟩ := h.width_bounds (h.encRunning hp).1
    exact .inr ⟨rfl, hcnt, by simp [hp], fun _ => ⟨hcnt.trans_le hlt, hw⟩⟩
  | decDigit hp _ hlt =>
    obtain ⟨hw, -⟩ := h.width_bounds (h.decRunning hp).1
    exact .inr ⟨rfl, hcnt, by simp [hp], fun _ => ⟨hcnt.trans_le hlt, hw⟩⟩
  | _ => exact .inl rfl

/-- Settles O4: CNT is bounded in every state of the invariant, and each step of the core that does not complete the
command raises it. -/
theorem everyRunPhaseEnds : Obligations.EveryRunPhaseEnds := by
  refine ⟨fun s h _ => h.exists_run_idle, fun s t h _ hp hstep => ?_⟩
  obtain hidle | ⟨l, hr⟩ := step_of_busy_cases hp hstep
  · exact .inl hidle
  · exact (h.withInputs l).completes_or_countsOnTo hr

/-! ## The `reset` input (R205, R207) -/

/-- The `reset` input takes the block to its reset state, whatever the phase and whatever is on offer. -/
theorem step_of_reset {p : PortIn} {rest : List PortIn} (hin : s.inputs = p :: rest) (hr : p.reset = true) :
    step s = .next ({ s with inputs := rest }).toReset := by
  rw [step, hin]
  exact if_pos hr

/-- Settles O17: the step is a reset before the handshake and the core are asked. -/
theorem resetInputBeatsEverything : Obligations.ResetInputBeatsEverything := fun _ _ _ hin hr =>
  ⟨_, step_of_reset hin hr, State.toReset_hasResetValues _, rfl, rfl, rfl, rfl, rfl⟩

end Sys2Proof.Machine
end

section
/-! PROOFS. The digit steps of CFG, ENC and DEC end in the states of their one-function readings (`40_configuration.md`
R97, `41_encode.md` R113, `42_decode.md` R130; `70_reset_and_hazards.md` R221). -/

namespace Sys2Proof.Machine

variable {s t : State}

/-- A 9-bit count that holds i reads as i in ERRINFO (R184). -/
theorem zextIdx_ofNat {i : Nat} (hi : i < 2 ^ 9) : zextIdx (BitVec.ofNat 9 i) = BitVec.ofNat 16 i := by
  refine BitVec.eq_of_toNat_eq ?_
  rw [zextIdx_toNat, toNat_ofNat_of_lt hi, toNat_ofNat_of_lt (by omega)]

/-! ## CFG -/

theorem State.firstDuplicate_eq_some_iff {n i : Nat} :
    s.firstDuplicate n = some i ↔ s.RepeatsAt i ∧ i < n ∧ ∀ k, k < i → ¬s.RepeatsAt k := by
  simp [State.firstDuplicate, State.RepeatsAt, List.find?_range_eq_some]

theorem State.firstDuplicate_eq_none_iff {n : Nat} : s.firstDuplicate n = none ↔ ∀ k, k < n → ¬s.RepeatsAt k := by
  simp [State.firstDuplicate, State.RepeatsAt]

/-- Each outcome of CFG is the branch of its reading with the same condition. -/
theorem CfgOutcome.eq_bigCfg {n : Idx} (h : CfgOutcome s n t) : t = bigCfg n s := by
  cases h with
  | locked hc => rw [bigCfg, if_pos hc]
  | few hc hn =>
    rw [bigCfg, if_neg (by simp [hc]), if_pos hn]
    rfl
  | many hc hn =>
    rw [bigCfg, if_neg (by simp [hc]), if_neg (by omega), if_pos hn]
    rfl
  | duplicate hc h16 h256 i hi hrep hfirst =>
    have hdup := State.firstDuplicate_eq_some_iff.2 ⟨hrep, hi, hfirst⟩
    rw [bigCfg, if_neg (by simp [hc]), if_neg (by omega), if_neg (by omega), hdup, State.cfgScanned,
      zextIdx_ofNat (by omega)]
    rfl
  | built hc h16 h256 hdistinct =>
    have hdup := State.firstDuplicate_eq_none_iff.2 hdistinct
    rw [bigCfg, if_neg (by simp [hc]), if_neg (by omega), if_neg (by omega), hdup]
    rfl

/-- Settles O40: the scan ends in one of the outcomes, each of which is the reading's. -/
theorem cfgRunsToItsOneFunctionReading : Obligations.CfgRunsToItsOneFunctionReading := by
  intro n s _ hs
  obtain ⟨t, hissue, hout⟩ := issue_cfg_outcome hs n
  rw [hissue, hout.eq_bigCfg]

/-! ## ENC -/

/-- A table written at the indexes below k, in order. -/
theorem Memory.read?_foldl_write (f : Nat → BitVec 8) (m : Memory) (k j : Nat) :
    ((List.range k).foldl (fun m i => m.write i (f i)) m).read? j = if j < k then some (f j) else m.read? j := by
  induction k with
  | zero => rfl
  | succ k ih =>
    rw [List.range_succ, List.foldl_append, List.foldl_cons, List.foldl_nil, Memory.read?_write, ih]
    obtain hj | rfl | hj := Nat.lt_trichotomy j k
    · rw [if_neg hj.ne, if_pos hj, if_pos (by omega)]
    · rw [if_pos rfl, if_pos (Nat.lt_succ_self j)]
    · rw [if_neg hj.ne', if_neg (by omega), if_neg (by omega)]

theorem Memory.wf_foldl_write (f : Nat → BitVec 8) {m : Memory} (hm : m.wf) (l : List Nat) :
    (l.foldl (fun m i => m.write i (f i)) m).wf := by
  induction l generalizing m with
  | nil => exact hm
  | cons i l ih => exact ih (Memory.wf_write i (f i) hm)

/-- A table in canonical form is the encoded table when it reads as the reading of ENC says (R113). -/
theorem State.eq_encodedTable {m : Memory} {v : Value} (hs : s.obuf.wf) (hm : m.wf)
    (hread : ∀ j, m.read? j =
      if j < s.w.toNat then some (s.fwdAt (digitAt s.b.toNat s.w.toNat v.toNat j)) else s.obuf.read? j) :
    m = s.encodedTable v := by
  refine Memory.eq_of_read? hm (Memory.wf_foldl_write _ hs _) fun j => ?_
  rw [hread, State.encodedTable, Memory.read?_foldl_write]

/-- Settles O41: the run of ENC writes the digits from the last position to the first and the reading from the first to
the last; both tables are in canonical form and read alike. -/
theorem encRunsToItsOneFunctionReading : Obligations.EncRunsToItsOneFunctionReading := by
  intro v s h hs
  cases hc : s.cfgOk with
  | true =>
    obtain ⟨m, hissue, hread⟩ := h.issue_enc hs hc v
    obtain ⟨hinv, -⟩ := h.after_issue hs hissue
    have hm : m = s.encodedTable v := State.eq_encodedTable h.tables.obufWf hinv.tables.obufWf hread
    rw [hissue, hm, bigEnc, if_pos hc]
    rfl
  | false =>
    rw [issue_of_exec hs (exec_enc_of_unconfigured hc v) hs.1, bigEnc, if_neg (by simp [hc])]

/-! ## DEC -/

/-- Each outcome of DEC is the branch of its reading with the same condition. -/
theorem DecOutcome.eq_bigDec {len : Idx} (hout : DecOutcome s len t) (h : Inv s) (hc : s.cfgOk = true) :
    t = bigDec len s := by
  obtain ⟨hw, -⟩ := h.width_bounds hc
  rw [bigDec, if_pos hc]
  cases hout with
  | length hlen =>
    rw [if_pos hlen]
    rfl
  | badSymbol hlen j hj =>
    obtain ⟨-, hlt, -⟩ := State.firstBadSymbol_eq_some_iff.1 hj
    rw [if_neg (not_not_intro hlen), hj, zextIdx_ofNat (by omega)]
    rfl
  | tooLarge hlen hgood hv =>
    rw [if_neg (not_not_intro hlen), hgood]
    exact (if_pos hv).symm
  | decoded hlen hgood hv =>
    rw [if_neg (not_not_intro hlen), hgood]
    exact (if_neg (by omega)).symm

/-- Settles O42: the run of a configured block ends in one of the outcomes, each of which is the reading's. -/
theorem decRunsToItsOneFunctionReading : Obligations.DecRunsToItsOneFunctionReading := by
  intro len s h hs
  cases hc : s.cfgOk with
  | true =>
    obtain ⟨t, hissue, hout⟩ := h.issue_dec_outcome hs hc len
    rw [hissue, hout.eq_bigDec h hc]
  | false =>
    rw [issue_of_exec hs (exec_dec_of_unconfigured hc len) hs.1, bigDec, if_neg (by simp [hc])]

end Sys2Proof.Machine
end
